-- ==== Sys2Proof/Word.lean ====
section
/-! DEFINITION. The word types of the machine: 8-bit data, 16-bit instruction words and addresses, 4-bit indices
(10_state.md R10, R13, R14; 30_encoding.md R60, R61). -/

namespace Sys2Proof

/-- The data width: registers, timers and memory cells (00_scope.md R1, R3). -/
abbrev Byte := BitVec 8

/-- An instruction word, and the width of `PC`, `I`, a stack entry, `halt_addr` and `halt_word`. -/
abbrev Word := BitVec 16

/-- The 12-bit address operand `nnn` (30_encoding.md R61). -/
abbrev Addr12 := BitVec 12

/-- A register index `x` or `y`: every value names a register (10_state.md R10). -/
abbrev RegIdx := Fin 16

/-- A key id 0x0 to 0xF (10_state.md R21). -/
abbrev KeyIdx := Fin 16

/-- The flag register VF is `V[15]` (10_state.md R10, R12). -/
abbrev VF : RegIdx := 15

end Sys2Proof
end

