-- ==== Sys2Proof/Config.lean ====
section
/-! DEFINITION. What is fixed for a machine: the constants of 00_scope.md R3, its parameters as a record, and the free
byte that an RND execution consumes. -/

namespace Sys2Proof

/-- `MEM_SIZE`: addresses 0 to 4095 (00_scope.md R3, 20_memory.md R40). -/
abbrev memSize : Nat := 4096

/-- `STACK_DEPTH` (00_scope.md R3, 10_state.md R15). -/
abbrev stackDepth : Nat := 16

/-- `PROG_BASE`: where the ROM is loaded and where the first fetch is made (20_memory.md R41). -/
abbrev progBase : Nat := 0x200

/-- `ROM_MAX` = 4096 - 0x200 (70_reset_and_hazards.md R201). -/
abbrev romMax : Nat := 3584

/-- `SPRITE_SIZE`: bytes of one font glyph (00_scope.md R3). -/
abbrev glyphSize : Nat := 5

/-- The size of the font set, 16 glyphs of 5 bytes (10_state.md R19). -/
abbrev fontSize : Nat := 80

/-- The values of the parameter `SHIFT_SRC`: `x`, the shifts read Vx (the default), or `y`, they read Vy
(00_scope.md R3, 92_eei_decisions.md D5). -/
inductive ShiftSrc where
  | x
  | y
  deriving DecidableEq, Repr

/-- The parameters of the block (00_scope.md R3). `fontBase` is bounded so that `FONT_BASE + 79` is at most 0x1FF, the
side condition of 93_implementation_defined.md U12. DESIGN CHOICE (log 1, log 23). -/
structure Config where
  /-- `SHIFT_SRC`. -/
  shiftSrc : ShiftSrc
  /-- `FONT_BASE`, 0 to 0x1B0. -/
  fontBase : Fin 433
  /-- `FONT_DATA`, the 80 font bytes. -/
  fontData : Vector Byte fontSize
  /-- `TICK_HZ`, recorded and used by no rule (92_eei_decisions.md D27). -/
  tickHz : Nat
  deriving DecidableEq, Repr

/-- The free byte `rnd` of the n-th execution of RND: unconstrained, no law (41_load_alu.md R113; 93_implementation_defined.md
U3). It has no body: no proof can see what it is. DESIGN CHOICE of its form (log 3). -/
opaque Config.rnd : Nat → BitVec 8

end Sys2Proof
end

