-- ==== Sys2Proof/Syntax.lean ====
section
/-! DEFINITION. The instructions: one constructor per row of spec/opcode_table.json (30_encoding.md R64), with the operand
fields of R61 as data. -/

namespace Sys2Proof

/-- The 35 instructions, in the order of the opcode table. `nnn`, `kk`, `x`, `y` and `n` are the fields of
30_encoding.md R61; an instruction holds every operand field its format has (R62), the ignored `y` of SHR and SHL and the
ignored `nnn` of SYS included, so that a decoded word is never shortened. -/
inductive Instr where
  /-- `0nnn`, SYS addr, nnn neither 0x0E0 nor 0x0EE (R83). -/
  | sys (nnn : Addr12)
  /-- `00E0`, CLS (R142). -/
  | cls
  /-- `00EE`, RET (R84). -/
  | ret
  /-- `1nnn`, JP addr (R85). -/
  | jp (nnn : Addr12)
  /-- `2nnn`, CALL addr (R86). -/
  | call (nnn : Addr12)
  /-- `3xkk`, SE Vx,kk (R89). -/
  | seVxKk (x : RegIdx) (kk : Byte)
  /-- `4xkk`, SNE Vx,kk (R90). -/
  | sneVxKk (x : RegIdx) (kk : Byte)
  /-- `5xy0`, SE Vx,Vy (R91). -/
  | seVxVy (x y : RegIdx)
  /-- `6xkk`, LD Vx,kk (R101). -/
  | ldVxKk (x : RegIdx) (kk : Byte)
  /-- `7xkk`, ADD Vx,kk (R102). -/
  | addVxKk (x : RegIdx) (kk : Byte)
  /-- `8xy0`, LD Vx,Vy (R103). -/
  | ldVxVy (x y : RegIdx)
  /-- `8xy1`, OR Vx,Vy (R104). -/
  | orVxVy (x y : RegIdx)
  /-- `8xy2`, AND Vx,Vy (R105). -/
  | andVxVy (x y : RegIdx)
  /-- `8xy3`, XOR Vx,Vy (R106). -/
  | xorVxVy (x y : RegIdx)
  /-- `8xy4`, ADD Vx,Vy (R107). -/
  | addVxVy (x y : RegIdx)
  /-- `8xy5`, SUB Vx,Vy (R108). -/
  | subVxVy (x y : RegIdx)
  /-- `8xy6`, SHR Vx (R109). -/
  | shrVx (x y : RegIdx)
  /-- `8xy7`, SUBN Vx,Vy (R110). -/
  | subnVxVy (x y : RegIdx)
  /-- `8xyE`, SHL Vx (R111). -/
  | shlVx (x y : RegIdx)
  /-- `9xy0`, SNE Vx,Vy (R92). -/
  | sneVxVy (x y : RegIdx)
  /-- `Annn`, LD I,addr (R121). -/
  | ldIAddr (nnn : Addr12)
  /-- `Bnnn`, JP V0,addr (R88). -/
  | jpV0Addr (nnn : Addr12)
  /-- `Cxkk`, RND Vx,kk (R113). -/
  | rndVxKk (x : RegIdx) (kk : Byte)
  /-- `Dxyn`, DRW Vx,Vy,n (R144). -/
  | drwVxVyN (x y : RegIdx) (n : Fin 16)
  /-- `Ex9E`, SKP Vx (R154). -/
  | skpVx (x : RegIdx)
  /-- `ExA1`, SKNP Vx (R155). -/
  | sknpVx (x : RegIdx)
  /-- `Fx07`, LD Vx,DT (R150). -/
  | ldVxDt (x : RegIdx)
  /-- `Fx0A`, LD Vx,K (R157). -/
  | ldVxK (x : RegIdx)
  /-- `Fx15`, LD DT,Vx (R151). -/
  | ldDtVx (x : RegIdx)
  /-- `Fx18`, LD ST,Vx (R152). -/
  | ldStVx (x : RegIdx)
  /-- `Fx1E`, ADD I,Vx (R122). -/
  | addIVx (x : RegIdx)
  /-- `Fx29`, LD F,Vx (R124). -/
  | ldFVx (x : RegIdx)
  /-- `Fx33`, LD B,Vx (R126). -/
  | ldBVx (x : RegIdx)
  /-- `Fx55`, LD [I],Vx (R128). -/
  | ldMemVx (x : RegIdx)
  /-- `Fx65`, LD Vx,[I] (R130). -/
  | ldVxMem (x : RegIdx)
  deriving DecidableEq, Repr

end Sys2Proof
end

