-- ==== Sys2Proof/WellFormed.lean ====
section
/-! DEFINITION. Well-formed instructions: those some instruction word encodes. -/

namespace Sys2Proof

/-- The only relation between fields that the types do not hold already: `0nnn` is SYS for every nnn except 0x0E0 and
0x0EE, which are CLS and RET (30_encoding.md R64, 40_control_flow.md R83). -/
def Instr.wellFormed (i : Instr) : Bool :=
  match i with
  | .sys nnn => nnn != 0x0E0 && nnn != 0x0EE
  | .cls | .ret | .jp _ | .call _ | .seVxKk _ _ | .sneVxKk _ _ | .seVxVy _ _ | .ldVxKk _ _ | .addVxKk _ _
  | .ldVxVy _ _ | .orVxVy _ _ | .andVxVy _ _ | .xorVxVy _ _ | .addVxVy _ _ | .subVxVy _ _ | .shrVx _ _
  | .subnVxVy _ _ | .shlVx _ _ | .sneVxVy _ _ | .ldIAddr _ | .jpV0Addr _ | .rndVxKk _ _ | .drwVxVyN _ _ _
  | .skpVx _ | .sknpVx _ | .ldVxDt _ | .ldVxK _ | .ldDtVx _ | .ldStVx _ | .addIVx _ | .ldFVx _ | .ldBVx _
  | .ldMemVx _ | .ldVxMem _ => true

end Sys2Proof
end

