-- ==== Sys2Proof/Decode.lean ====
section
/-! DEFINITION. The operand fields of a word (30_encoding.md R61), the opcode map in one table (R64, R66), the decoder,
total on any bytes, and the encoder written from the same table. UNVERIFIED: the numbers of the map are the spec's from
general knowledge (log 11). -/

namespace Sys2Proof

/-! ## Fields (R61) -/

/-- `nnn = w[11:0]`. -/
def fieldNnn (w : Word) : Addr12 := w.extractLsb' 0 12

/-- `kk = w[7:0]`. -/
def fieldKk (w : Word) : Byte := w.extractLsb' 0 8

/-- A nibble as a number 0 to 15. -/
def nibbleValue (b : BitVec 4) : Fin 16 := ⟨b.toNat, b.isLt⟩

/-- A number 0 to 15 as a nibble. -/
def nibbleBits (x : Fin 16) : BitVec 4 := BitVec.ofNat 4 x.val

/-- `x = w[11:8]`. -/
def fieldX (w : Word) : RegIdx := nibbleValue (w.extractLsb' 8 4)

/-- `y = w[7:4]`. -/
def fieldY (w : Word) : RegIdx := nibbleValue (w.extractLsb' 4 4)

/-- `n = w[3:0]`. -/
def fieldN (w : Word) : Fin 16 := nibbleValue (w.extractLsb' 0 4)

/-- The field `nnn` put back into its place. -/
def placeNnn (nnn : Addr12) : Word := nnn.setWidth 16

/-- The field `kk` put back into its place. -/
def placeKk (kk : Byte) : Word := kk.setWidth 16

/-- The field `x` put back into its place. -/
def placeX (x : RegIdx) : Word := (nibbleBits x).setWidth 16 <<< 8

/-- The field `y` put back into its place. -/
def placeY (y : RegIdx) : Word := (nibbleBits y).setWidth 16 <<< 4

/-- The field `n` put back into its place. -/
def placeN (n : Fin 16) : Word := (nibbleBits n).setWidth 16

/-! ## The opcode map (R64) -/

/-- One row of the opcode map: a word w is the instruction when `w & mask = pattern`, and `build` reads its fields. -/
structure OpRow where
  mask : Word
  pattern : Word
  build : Word → Instr

/-- `w & mask = match` (R64). -/
def OpRow.accepts (r : OpRow) (w : Word) : Bool := w &&& r.mask == r.pattern

def rowSys : OpRow := ⟨0xF000, 0x0000, fun w => .sys (fieldNnn w)⟩
def rowCls : OpRow := ⟨0xFFFF, 0x00E0, fun _ => .cls⟩
def rowRet : OpRow := ⟨0xFFFF, 0x00EE, fun _ => .ret⟩
def rowJp : OpRow := ⟨0xF000, 0x1000, fun w => .jp (fieldNnn w)⟩
def rowCall : OpRow := ⟨0xF000, 0x2000, fun w => .call (fieldNnn w)⟩
def rowSeVxKk : OpRow := ⟨0xF000, 0x3000, fun w => .seVxKk (fieldX w) (fieldKk w)⟩
def rowSneVxKk : OpRow := ⟨0xF000, 0x4000, fun w => .sneVxKk (fieldX w) (fieldKk w)⟩
def rowSeVxVy : OpRow := ⟨0xF00F, 0x5000, fun w => .seVxVy (fieldX w) (fieldY w)⟩
def rowLdVxKk : OpRow := ⟨0xF000, 0x6000, fun w => .ldVxKk (fieldX w) (fieldKk w)⟩
def rowAddVxKk : OpRow := ⟨0xF000, 0x7000, fun w => .addVxKk (fieldX w) (fieldKk w)⟩
def rowLdVxVy : OpRow := ⟨0xF00F, 0x8000, fun w => .ldVxVy (fieldX w) (fieldY w)⟩
def rowOrVxVy : OpRow := ⟨0xF00F, 0x8001, fun w => .orVxVy (fieldX w) (fieldY w)⟩
def rowAndVxVy : OpRow := ⟨0xF00F, 0x8002, fun w => .andVxVy (fieldX w) (fieldY w)⟩
def rowXorVxVy : OpRow := ⟨0xF00F, 0x8003, fun w => .xorVxVy (fieldX w) (fieldY w)⟩
def rowAddVxVy : OpRow := ⟨0xF00F, 0x8004, fun w => .addVxVy (fieldX w) (fieldY w)⟩
def rowSubVxVy : OpRow := ⟨0xF00F, 0x8005, fun w => .subVxVy (fieldX w) (fieldY w)⟩
def rowShrVx : OpRow := ⟨0xF00F, 0x8006, fun w => .shrVx (fieldX w) (fieldY w)⟩
def rowSubnVxVy : OpRow := ⟨0xF00F, 0x8007, fun w => .subnVxVy (fieldX w) (fieldY w)⟩
def rowShlVx : OpRow := ⟨0xF00F, 0x800E, fun w => .shlVx (fieldX w) (fieldY w)⟩
def rowSneVxVy : OpRow := ⟨0xF00F, 0x9000, fun w => .sneVxVy (fieldX w) (fieldY w)⟩
def rowLdIAddr : OpRow := ⟨0xF000, 0xA000, fun w => .ldIAddr (fieldNnn w)⟩
def rowJpV0Addr : OpRow := ⟨0xF000, 0xB000, fun w => .jpV0Addr (fieldNnn w)⟩
def rowRndVxKk : OpRow := ⟨0xF000, 0xC000, fun w => .rndVxKk (fieldX w) (fieldKk w)⟩
def rowDrwVxVyN : OpRow := ⟨0xF000, 0xD000, fun w => .drwVxVyN (fieldX w) (fieldY w) (fieldN w)⟩
def rowSkpVx : OpRow := ⟨0xF0FF, 0xE09E, fun w => .skpVx (fieldX w)⟩
def rowSknpVx : OpRow := ⟨0xF0FF, 0xE0A1, fun w => .sknpVx (fieldX w)⟩
def rowLdVxDt : OpRow := ⟨0xF0FF, 0xF007, fun w => .ldVxDt (fieldX w)⟩
def rowLdVxK : OpRow := ⟨0xF0FF, 0xF00A, fun w => .ldVxK (fieldX w)⟩
def rowLdDtVx : OpRow := ⟨0xF0FF, 0xF015, fun w => .ldDtVx (fieldX w)⟩
def rowLdStVx : OpRow := ⟨0xF0FF, 0xF018, fun w => .ldStVx (fieldX w)⟩
def rowAddIVx : OpRow := ⟨0xF0FF, 0xF01E, fun w => .addIVx (fieldX w)⟩
def rowLdFVx : OpRow := ⟨0xF0FF, 0xF029, fun w => .ldFVx (fieldX w)⟩
def rowLdBVx : OpRow := ⟨0xF0FF, 0xF033, fun w => .ldBVx (fieldX w)⟩
def rowLdMemVx : OpRow := ⟨0xF0FF, 0xF055, fun w => .ldMemVx (fieldX w)⟩
def rowLdVxMem : OpRow := ⟨0xF0FF, 0xF065, fun w => .ldVxMem (fieldX w)⟩

/-- The map, CLS and RET before SYS: "a decoder tests 00E0 and 00EE first" (R64). No other two rows overlap. -/
def opcodeTable : List OpRow :=
  [rowCls, rowRet, rowSys, rowJp, rowCall, rowSeVxKk, rowSneVxKk, rowSeVxVy, rowLdVxKk, rowAddVxKk, rowLdVxVy,
   rowOrVxVy, rowAndVxVy, rowXorVxVy, rowAddVxVy, rowSubVxVy, rowShrVx, rowSubnVxVy] ++
  [rowShlVx, rowSneVxVy, rowLdIAddr, rowJpV0Addr, rowRndVxKk, rowDrwVxVyN, rowSkpVx, rowSknpVx, rowLdVxDt, rowLdVxK,
   rowLdDtVx, rowLdStVx, rowAddIVx, rowLdFVx, rowLdBVx, rowLdMemVx, rowLdVxMem]

/-! ## Decoding -/

/-- Why bytes are no instruction. -/
inductive DecodeError where
  /-- Fewer than the two bytes of a word (R60). -/
  | truncated
  /-- The word matches no row (R70). -/
  | unknownOpcode (w : Word)
  deriving DecidableEq, Repr

/-- The instruction a word stands for: the first row that accepts it (R64, R65); a word no row accepts is unknown (R70). -/
def decodeWord (w : Word) : Except DecodeError Instr :=
  match opcodeTable.find? (fun r => r.accepts w) with
  | some r => .ok (r.build w)
  | none => .error (.unknownOpcode w)

/-- The word two bytes form, the byte at the lower address first: `(memory[pc] << 8) | memory[pc+1]` (20_memory.md R42). -/
def wordOfBytes (hi lo : Byte) : Word := hi.setWidth 16 <<< 8 ||| lo.setWidth 16

/-- The two bytes of a word in memory order (20_memory.md R42). -/
def bytesOfWord (w : Word) : List Byte := [w.extractLsb' 8 8, w.extractLsb' 0 8]

/-- Decoding a byte sequence: the instruction and the bytes after it. Every instruction is two bytes long (R60). -/
def decode (bytes : List Byte) : Except DecodeError (Instr × List Byte) :=
  match bytes with
  | hi :: lo :: rest =>
    match decodeWord (wordOfBytes hi lo) with
    | .ok i => .ok (i, rest)
    | .error e => .error e
  | [_] => .error .truncated
  | [] => .error .truncated

/-! ## Encoding -/

/-- The row of the opcode map an instruction belongs to. -/
def rowOf (i : Instr) : OpRow :=
  match i with
  | .sys _ => rowSys
  | .cls => rowCls
  | .ret => rowRet
  | .jp _ => rowJp
  | .call _ => rowCall
  | .seVxKk _ _ => rowSeVxKk
  | .sneVxKk _ _ => rowSneVxKk
  | .seVxVy _ _ => rowSeVxVy
  | .ldVxKk _ _ => rowLdVxKk
  | .addVxKk _ _ => rowAddVxKk
  | .ldVxVy _ _ => rowLdVxVy
  | .orVxVy _ _ => rowOrVxVy
  | .andVxVy _ _ => rowAndVxVy
  | .xorVxVy _ _ => rowXorVxVy
  | .addVxVy _ _ => rowAddVxVy
  | .subVxVy _ _ => rowSubVxVy
  | .shrVx _ _ => rowShrVx
  | .subnVxVy _ _ => rowSubnVxVy
  | .shlVx _ _ => rowShlVx
  | .sneVxVy _ _ => rowSneVxVy
  | .ldIAddr _ => rowLdIAddr
  | .jpV0Addr _ => rowJpV0Addr
  | .rndVxKk _ _ => rowRndVxKk
  | .drwVxVyN _ _ _ => rowDrwVxVyN
  | .skpVx _ => rowSkpVx
  | .sknpVx _ => rowSknpVx
  | .ldVxDt _ => rowLdVxDt
  | .ldVxK _ => rowLdVxK
  | .ldDtVx _ => rowLdDtVx
  | .ldStVx _ => rowLdStVx
  | .addIVx _ => rowAddIVx
  | .ldFVx _ => rowLdFVx
  | .ldBVx _ => rowLdBVx
  | .ldMemVx _ => rowLdMemVx
  | .ldVxMem _ => rowLdVxMem

/-- The operand bits of an instruction, each field in the place its format gives it (R62). -/
def operandBits (i : Instr) : Word :=
  match i with
  | .cls | .ret => 0
  | .sys nnn | .jp nnn | .call nnn | .ldIAddr nnn | .jpV0Addr nnn => placeNnn nnn
  | .seVxKk x kk | .sneVxKk x kk | .ldVxKk x kk | .addVxKk x kk | .rndVxKk x kk => placeX x ||| placeKk kk
  | .seVxVy x y | .ldVxVy x y | .orVxVy x y | .andVxVy x y | .xorVxVy x y | .addVxVy x y | .subVxVy x y
  | .shrVx x y | .subnVxVy x y | .shlVx x y | .sneVxVy x y => placeX x ||| placeY y
  | .drwVxVyN x y n => placeX x ||| placeY y ||| placeN n
  | .skpVx x | .sknpVx x | .ldVxDt x | .ldVxK x | .ldDtVx x | .ldStVx x | .addIVx x | .ldFVx x | .ldBVx x
  | .ldMemVx x | .ldVxMem x => placeX x

/-- The instruction's word: its row's pattern with the operand fields filled in (R62, R64). -/
def encode (i : Instr) : Word := (rowOf i).pattern ||| operandBits i

/-- The instruction's bytes, as the hardware stores them (20_memory.md R42). -/
def encodeBytes (i : Instr) : List Byte := bytesOfWord (encode i)

/-- What the decoder reads from an instruction whose bits are `w` as spec/opcode_table.json numbers them, laid out in
memory order; the bits above `nbits` are 0. -/
def decodeTableWord (nbits w : Nat) : Option Instr :=
  match decode (bytesOfWord (BitVec.ofNat 16 (w % 2 ^ nbits))) with
  | .ok (i, _) => some i
  | .error _ => none

end Sys2Proof
end

