-- ==== Sys2Proof/Machine/Params.lean ====
section
/-! DEFINITION. The default values of the parameters of 00_scope.md R3, each in one replaceable definition. UNVERIFIED: the
font bytes are the spec's from general knowledge (log 2). -/

namespace Sys2Proof.Machine

/-- The default `SHIFT_SRC` is `x` (00_scope.md R3, 92_eei_decisions.md D5). -/
def defaultShiftSrc : ShiftSrc := .x

/-- The default `FONT_BASE` is 0x050 (00_scope.md R3, 10_state.md R19). -/
def defaultFontBase : Fin 433 := 0x050

/-- Glyphs 0 to 7 of the conventional font (10_state.md R19, from general knowledge: 93_implementation_defined.md G5). -/
def fontLow : List Byte :=
  [0xF0, 0x90, 0x90, 0x90, 0xF0] ++ [0x20, 0x60, 0x20, 0x20, 0x70] ++
  [0xF0, 0x10, 0xF0, 0x80, 0xF0] ++ [0xF0, 0x10, 0xF0, 0x10, 0xF0] ++
  [0x90, 0x90, 0xF0, 0x10, 0x10] ++ [0xF0, 0x80, 0xF0, 0x10, 0xF0] ++
  [0xF0, 0x80, 0xF0, 0x90, 0xF0] ++ [0xF0, 0x10, 0x20, 0x40, 0x40]

/-- Glyphs 8 to F of the conventional font (10_state.md R19). -/
def fontHigh : List Byte :=
  [0xF0, 0x90, 0xF0, 0x90, 0xF0] ++ [0xF0, 0x90, 0xF0, 0x10, 0xF0] ++
  [0xF0, 0x90, 0xF0, 0x90, 0x90] ++ [0xE0, 0x90, 0xE0, 0x90, 0xE0] ++
  [0xF0, 0x80, 0x80, 0x80, 0xF0] ++ [0xE0, 0x90, 0x90, 0x90, 0xE0] ++
  [0xF0, 0x80, 0xF0, 0x80, 0xF0] ++ [0xF0, 0x80, 0xF0, 0x80, 0x80]

/-- The default `FONT_DATA` (10_state.md R19). -/
def defaultFontData : Vector Byte fontSize := ⟨(fontLow ++ fontHigh).toArray, rfl⟩

/-- The default `TICK_HZ` (00_scope.md R3). -/
def defaultTickHz : Nat := 60

/-- The default configuration (00_scope.md R3). -/
def defaultConfig : Config :=
  { shiftSrc := defaultShiftSrc, fontBase := defaultFontBase, fontData := defaultFontData, tickHz := defaultTickHz }

end Sys2Proof.Machine
end

