-- ==== Sys2Proof/Machine/State.lean ====
section
/-! DEFINITION. The architectural state of the machine (10_state.md R10 to R29), the reasons a step can stop, and the
state right after reset. -/

namespace Sys2Proof.Machine

/-- The three values of `run_state` (10_state.md R23). -/
inductive RunState where
  | running
  | awaitingKey
  | halted
  deriving DecidableEq, Repr

/-- The halt causes (60_exceptions.md R171). -/
inductive HaltCause where
  /-- Code 0: not halted. -/
  | none
  /-- Code 1: PC > 4094 at a fetch. -/
  | fetchOutOfBounds
  /-- Code 2: a data access past address 4095. -/
  | dataOutOfBounds
  /-- Code 3: CALL with 16 live entries. -/
  | stackOverflow
  /-- Code 4: RET with an empty stack. -/
  | stackUnderflow
  /-- Code 5: a word no executable instruction matches, SYS included. -/
  | unknownOpcode
  /-- Code 6: the event Stop. -/
  | stopRequested
  /-- Code 7: a ROM of more than 3584 bytes at Reset. -/
  | romTooLarge
  deriving DecidableEq, Repr

/-- The reasons a step can stop outside the machine's own behaviour: NONE. The spec's one exceptional mechanism, halting,
is a state of the machine in which it goes on being observable (40_control_flow.md R80, 60_exceptions.md R170, R174), so it
is a next state, and nothing in the spec is left without an effect. DEDUCED (log 6): safe. -/
inductive Fault where
  deriving DecidableEq, Repr

/-- The reasons the model gives no meaning. -/
inductive Refusal where
  /-- An instruction that has no meaning yet, raised by its arm of `exec` only; no arm raises it. Safe. -/
  | notModelled (mnemonic : String)
  deriving DecidableEq, Repr

/-- The 64 by 32 one-bit display buffer, rows first: `disp[r][c]` (10_state.md R20). -/
abbrev Display := Vector (Vector Bool 64) 32

/-- The 16 key flags (10_state.md R21). -/
abbrev Keys := Vector Bool 16

/-- Memory as the list of the bytes that differ from their reset contents, addresses strictly rising (10_state.md R18;
log 10). Its reads and writes are in Machine/Ops.lean. -/
abbrev Memory := List Host.Cell

/-- The whole state. The last two fields are the model's own (log 1, log 3); every other field is the spec's. -/
structure State where
  /-- `V[0]` to `V[15]` (10_state.md R10). -/
  v : Vector Byte 16
  /-- `I` (10_state.md R14). -/
  i : Word
  /-- `PC` (10_state.md R13; log 8). -/
  pc : Word
  /-- `SP`, the count of live stack entries, 0 to 16 (10_state.md R15). -/
  sp : Fin 17
  /-- `stack[0]` to `stack[15]` (10_state.md R15). -/
  stack : Vector Word stackDepth
  /-- `DT` (10_state.md R16). -/
  dt : Byte
  /-- `ST` (10_state.md R17). -/
  st : Byte
  /-- `mem[0]` to `mem[4095]` (10_state.md R18). -/
  mem : Memory
  /-- `disp` (10_state.md R20). -/
  disp : Display
  /-- `keys` (10_state.md R21). -/
  keys : Keys
  /-- `needs_redraw` (10_state.md R22). -/
  needsRedraw : Bool
  /-- `run_state` (10_state.md R23). -/
  runState : RunState
  /-- `wait_reg` (10_state.md R24). -/
  waitReg : RegIdx
  /-- `key_prev` (10_state.md R24). -/
  keyPrev : Keys
  /-- `halt_cause` (10_state.md R25). -/
  haltCause : HaltCause
  /-- `halt_addr` (10_state.md R25). -/
  haltAddr : Word
  /-- `halt_word` (10_state.md R25). -/
  haltWord : Word
  /-- The configuration (00_scope.md R3), which nothing writes. The model's own field, DESIGN CHOICE (log 1). -/
  cfg : Config
  /-- How many RND executions there have been: the index of the next free byte. The model's own field, DESIGN CHOICE
  (log 3). -/
  rndCount : Nat
  deriving DecidableEq, Repr

/-- Every field at its reset value, for a configuration (10_state.md R29), before any ROM byte is copied: memory lists
nothing, so it reads as zeros and the font. -/
def State.initial (cfg : Config) : State :=
  { v := Vector.replicate 16 0, i := 0, pc := BitVec.ofNat 16 progBase, sp := 0, stack := Vector.replicate stackDepth 0,
    dt := 0, st := 0, mem := [], disp := Vector.replicate 32 (Vector.replicate 64 false),
    keys := Vector.replicate 16 false, needsRedraw := false, runState := .running, waitReg := 0,
    keyPrev := Vector.replicate 16 false, haltCause := .none, haltAddr := 0, haltWord := 0, cfg := cfg, rndCount := 0 }

/-- The machine right after `Reset` with an empty ROM and the default parameters (10_state.md R29, 70_reset_and_hazards.md
R200; log 5). -/
def State.reset : State := State.initial defaultConfig

end Sys2Proof.Machine
end

