-- ==== Sys2Proof/Machine/Ops.lean ====
section
/-! DEFINITION. The named operations over memory and registers, halting (the one exceptional mechanism), the reset that is
its only return, and the fetch. -/

namespace Sys2Proof.Machine

/-- What a step, a meaning or an event answers. -/
abbrev Result := Host.Outcome State Fault Refusal

/-! ## Memory (20_memory.md R40 to R47) -/

/-- What an unlisted address reads as: the reset contents, that is the font byte inside the font set and 0 everywhere
else (10_state.md R18, R19, R29). -/
def Memory.unlisted (c : Config) (a : Nat) : Byte :=
  if h : c.fontBase.val ≤ a ∧ a < c.fontBase.val + fontSize then c.fontData[a - c.fontBase.val]'(by omega) else 0

/-- The canonical form: addresses strictly rising, each inside the address space, and no entry equal to what an unlisted
address reads as (log 10). -/
abbrev Memory.wf (c : Config) (m : Memory) : Prop :=
  m.Pairwise (fun p q => p.1 < q.1) ∧ ∀ p ∈ m, p.1 < memSize ∧ p.2 ≠ Memory.unlisted c p.1

/-- `mem[a]` (00_scope.md R5). -/
def Memory.read (c : Config) (m : Memory) (a : Nat) : Byte :=
  match m with
  | [] => Memory.unlisted c a
  | (k, b) :: rest => if k = a then b else Memory.read c rest a

/-- Put a byte at its place in the rising list, or take the entry out where the byte is what an unlisted address reads
as. -/
def Memory.put (c : Config) (m : Memory) (a : Nat) (b : Byte) : Memory :=
  match m with
  | [] => if b = Memory.unlisted c a then [] else [(a, b)]
  | (k, w) :: rest =>
    if a < k then (if b = Memory.unlisted c a then (k, w) :: rest else (a, b) :: (k, w) :: rest)
    else if a = k then (if b = Memory.unlisted c a then rest else (a, b) :: rest)
    else (k, w) :: Memory.put c rest a b

/-- `mem[a] <- b` (00_scope.md R5, 20_memory.md R47). An address outside 0 to 4095 has no cell, and no instruction gets
here with one: its check halts first (R45). DESIGN CHOICE (log 10). -/
def Memory.write (c : Config) (m : Memory) (a : Nat) (b : Byte) : Memory :=
  if a < memSize then Memory.put c m a b else m

/-- The bytes of a list stored at `a`, `a + 1`, ... -/
def Memory.writeBytes (c : Config) (m : Memory) (a : Nat) (bs : List Byte) : Memory :=
  match bs with
  | [] => m
  | b :: rest => Memory.writeBytes c (Memory.write c m a b) (a + 1) rest

/-- `CheckRange` succeeds (20_memory.md R45): on natural numbers, nothing wraps, and an empty access never fails. -/
def inRange (a len : Nat) : Bool := !(decide (len > 0 ∧ a + len - 1 > 4095))

/-- `mem[a]` of a state. -/
def State.memByte (s : State) (a : Nat) : Byte := Memory.read s.cfg s.mem a

/-- The `n` bytes at `a`, `a + 1`, ... -/
def State.loadBytes (s : State) (a n : Nat) : List Byte := (List.range n).map (fun j => s.memByte (a + j))

/-- The bytes of a list stored at `a`, `a + 1`, ... of a state's memory. -/
def State.storeBytes (s : State) (a : Nat) (bs : List Byte) : State :=
  { s with mem := Memory.writeBytes s.cfg s.mem a bs }

/-! ## Registers -/

/-- Read of `V[x]` (00_scope.md R5). -/
def State.readV (s : State) (x : RegIdx) : Byte := s.v[x.val]

/-- `V[x] <- b` (00_scope.md R5). -/
def State.writeV (s : State) (x : RegIdx) (b : Byte) : State := { s with v := s.v.set x.val b }

/-- `V[0]` to `V[n-1]` taken from the bytes at `a`, `a + 1`, ... (42_index_memory.md R130). -/
def loadRegs (c : Config) (m : Memory) (a : Nat) (n : Nat) (v : Vector Byte 16) : Vector Byte 16 :=
  match n with
  | 0 => v
  | k + 1 => (loadRegs c m a k v).setIfInBounds k (Memory.read c m (a + k))

/-- `I <- w`. -/
def State.setI (s : State) (w : Word) : State := { s with i := w }

/-- `DT <- b`. -/
def State.setDt (s : State) (b : Byte) : State := { s with dt := b }

/-- `ST <- b`. -/
def State.setSt (s : State) (b : Byte) : State := { s with st := b }

/-- The display replaced and `needs_redraw <- 1`, as CLS and DRW end (10_state.md R22). -/
def State.redraw (s : State) (d : Display) : State := { s with disp := d, needsRedraw := true }

/-! ## The program counter (40_control_flow.md R81, R82) -/

/-- The sequential class: `PC <- PC + 2`. -/
def State.advance (s : State) : State := { s with pc := s.pc + 2 }

/-- The skip class: `PC + 4` if the condition holds, else `PC + 2`. -/
def State.skipIf (s : State) (cond : Bool) : State := { s with pc := if cond then s.pc + 4 else s.pc + 2 }

/-- The transfer class: the target and nothing more, neither aligned nor masked nor checked. -/
def State.jump (s : State) (target : Word) : State := { s with pc := target }

/-! ## The call stack (10_state.md R15) -/

/-- Push a return address; none when all 16 entries are live. -/
def State.push? (s : State) (ret : Word) : Option State :=
  if h : s.sp.val < stackDepth then
    some { s with stack := s.stack.set s.sp.val ret, sp := ⟨s.sp.val + 1, Nat.succ_lt_succ h⟩ }
  else none

/-- Pop the top entry, which is left in the array; none when the stack is empty. -/
def State.pop? (s : State) : Option (Word × State) :=
  if h : s.sp.val = 0 then none
  else some (s.stack[s.sp.val - 1]'(by have := s.sp.isLt; simp only [stackDepth]; omega),
    { s with sp := ⟨s.sp.val - 1, by have := s.sp.isLt; omega⟩ })

/-! ## Halting and its only return (60_exceptions.md R170, R173, R182) -/

/-- `raise Halt(cause)`: the three diagnostic registers and `run_state`, and nothing else. `word` is the fetched word,
or 0 where none was fetched (R170). -/
def State.raiseHalt (s : State) (cause : HaltCause) (word : Word) : State :=
  { s with haltCause := cause, haltAddr := s.pc, haltWord := word, runState := .halted }

/-- `Reset(rom)`: the whole state replaced, the font and the ROM in memory; a ROM of more than 3584 bytes is not copied
and halts (70_reset_and_hazards.md R200, R201). The configuration stays, and the count of free bytes goes on, so that the
free bytes after a reset are not tied to those before it (log 3). -/
def State.resetWith (s : State) (rom : List Byte) : State :=
  let s0 := { State.initial s.cfg with rndCount := s.rndCount }
  if rom.length > romMax then s0.raiseHalt .romTooLarge 0
  else s0.storeBytes progBase rom

/-! ## Fetch and the data check as the instructions use it -/

/-- `Fetch()`: the big-endian word at PC, or none where PC > 4094 (20_memory.md R46). -/
def State.fetchWord? (s : State) : Option Word :=
  if s.pc.toNat > 4094 then none
  else some (wordOfBytes (s.memByte s.pc.toNat) (s.memByte (s.pc.toNat + 1)))

/-- A sequential instruction whose effect `f` reaches `len` bytes at I: it halts before any effect when the range is out
of bounds (20_memory.md R45), and otherwise has its effect and advances. `w` is its own word. -/
def State.withDataRange (s : State) (len : Nat) (w : Word) (f : State → State) : Result :=
  if inRange s.i.toNat len then .next (f s).advance else .next (s.raiseHalt .dataOutOfBounds w)

end Sys2Proof.Machine
end

