-- ==== Sys2Proof/Machine/Operands.lean ====
section
/-! DEFINITION. Operand forms: immediates, effective addresses, the glyph address, BCD digits, register runs, key
selection and the shift source (30_encoding.md R63, 42_index_memory.md R120). -/

namespace Sys2Proof.Machine

/-- `nnn` zero-extended to 16 bits, never scaled (30_encoding.md R63). -/
def addrOf (nnn : Addr12) : Word := nnn.setWidth 16

/-- `nnn + V[0]`, a natural-number sum, at most 4350, not masked (40_control_flow.md R88). -/
def jumpV0Target (nnn : Addr12) (v0 : Byte) : Word := BitVec.ofNat 16 (nnn.toNat + v0.toNat)

/-- The effective address of data byte `j`: `I + j` on natural numbers (42_index_memory.md R120). -/
def State.dataAddr (s : State) (j : Nat) : Nat := s.i.toNat + j

/-- `FONT_BASE + 5 * V[x]`, the whole byte used (42_index_memory.md R124). -/
def glyphAddr (c : Config) (b : Byte) : Word := BitVec.ofNat 16 (c.fontBase.val + glyphSize * b.toNat)

/-- The hundreds, tens and ones digits, each a byte 0 to 9 (42_index_memory.md R126). -/
def bcdDigits (b : Byte) : List Byte :=
  [BitVec.ofNat 8 (b.toNat / 100), BitVec.ofNat 8 (b.toNat / 10 % 10), BitVec.ofNat 8 (b.toNat % 10)]

/-- The run `V[0]` to `V[x]`, Vx included (42_index_memory.md R128). -/
def State.regRun (s : State) (x : RegIdx) : List Byte := s.v.toList.take (x.val + 1)

/-- The key that `Vx` names: its low four bits (44_timers_keys.md R153). -/
def keyOf (b : Byte) : KeyIdx := ⟨b.toNat % 16, Nat.mod_lt _ (by decide)⟩

/-- The byte a shift works on: Vx, or Vy where `SHIFT_SRC = y` (41_load_alu.md R109, R111). -/
def State.shiftOperand (s : State) (x y : RegIdx) : Byte :=
  match s.cfg.shiftSrc with
  | .x => s.readV x
  | .y => s.readV y

/-- The first line of the shifts: with `SHIFT_SRC = y`, `V[x] <- V[y]`; with `x`, Vx keeps its own value
(41_load_alu.md R109, R111). UNVERIFIED for `y` (log 25). -/
def State.shiftSource (s : State) (x y : RegIdx) : State := s.writeV x (s.shiftOperand x y)

end Sys2Proof.Machine
end

