-- ==== Sys2Proof/Machine/Flags.lean ====
section
/-! DEFINITION. The values written to the flag register VF (10_state.md R12), and the arithmetic step that writes a result
and then the flag (41_load_alu.md R112). -/

namespace Sys2Proof.Machine

/-- A condition as a flag value, 1 or 0. -/
def flagOf (b : Bool) : Byte := if b then 1 else 0

/-- Carry: 1 if the unwrapped sum is greater than 255 (41_load_alu.md R107). -/
def carryFlag (a b : Byte) : Byte := flagOf (decide (a.toNat + b.toNat > 255))

/-- Not borrow: 1 if `a >= b`, unsigned (41_load_alu.md R108, R110). -/
def notBorrowFlag (a b : Byte) : Byte := flagOf (decide (a.toNat ≥ b.toNat))

/-- The bit a right shift drops (41_load_alu.md R109). -/
def lowBitFlag (a : Byte) : Byte := a &&& 1

/-- The bit a left shift drops (41_load_alu.md R111). -/
def highBitFlag (a : Byte) : Byte := (a &&& 0x80) >>> 7

/-- The result into V[x], then the flag into VF, which wins where x = F (41_load_alu.md R112 (a)). -/
def State.writeResultThenFlag (s : State) (x : RegIdx) (result flag : Byte) : State :=
  (s.writeV x result).writeV VF flag

/-- The flag into VF, then the result computed from V[x] as it then stands (41_load_alu.md R112 (b)). -/
def State.writeFlagThenResult (s : State) (x : RegIdx) (flag : Byte) (result : Byte → Byte) : State :=
  let s' := s.writeV VF flag
  s'.writeV x (result (s'.readV x))

end Sys2Proof.Machine
end

