-- ==== Sys2Proof/Machine/ControlFlow.lean ====
section
/-! DEFINITION. The meanings of the control-flow instructions (40_control_flow.md). -/

namespace Sys2Proof.Machine

/-- SYS addr: always halts with UnknownOpcode (40_control_flow.md R83). -/
def execSys (nnn : Addr12) (s : State) : Result := .next (s.raiseHalt .unknownOpcode (encode (.sys nnn)))

/-- RET (40_control_flow.md R84). -/
def execRet (s : State) : Result :=
  match s.pop? with
  | none => .next (s.raiseHalt .stackUnderflow (encode .ret))
  | some (target, s') => .next (s'.jump target)

/-- JP addr (40_control_flow.md R85). -/
def execJp (nnn : Addr12) (s : State) : Result := .next (s.jump (addrOf nnn))

/-- CALL addr: the pushed value is PC + 2 (40_control_flow.md R86). -/
def execCall (nnn : Addr12) (s : State) : Result :=
  match s.push? (s.pc + 2) with
  | none => .next (s.raiseHalt .stackOverflow (encode (.call nnn)))
  | some s' => .next (s'.jump (addrOf nnn))

/-- JP V0,addr (40_control_flow.md R88). -/
def execJpV0Addr (nnn : Addr12) (s : State) : Result := .next (s.jump (jumpV0Target nnn (s.readV 0)))

/-- SE Vx,kk (40_control_flow.md R89). -/
def execSeVxKk (x : RegIdx) (kk : Byte) (s : State) : Result := .next (s.skipIf (s.readV x == kk))

/-- SNE Vx,kk (40_control_flow.md R90). -/
def execSneVxKk (x : RegIdx) (kk : Byte) (s : State) : Result := .next (s.skipIf (s.readV x != kk))

/-- SE Vx,Vy (40_control_flow.md R91). -/
def execSeVxVy (x y : RegIdx) (s : State) : Result := .next (s.skipIf (s.readV x == s.readV y))

/-- SNE Vx,Vy (40_control_flow.md R92). -/
def execSneVxVy (x y : RegIdx) (s : State) : Result := .next (s.skipIf (s.readV x != s.readV y))

end Sys2Proof.Machine
end

