-- ==== Sys2Proof/Machine/Display.lean ====
section
/-! DEFINITION. The display buffer's pixels, the draw primitive, and the meanings of CLS and DRW (43_display.md). -/

namespace Sys2Proof.Machine

/-- `disp[r][c]`. -/
def Display.pixel (d : Display) (r : Fin 32) (c : Fin 64) : Bool := d[r.val][c.val]

/-- `disp[r][c] <- b`. -/
def Display.setPixel (d : Display) (r : Fin 32) (c : Fin 64) (b : Bool) : Display :=
  d.set r.val (d[r.val].set c.val b)

/-- All 2048 pixels off (43_display.md R142). -/
def Display.clear : Display := Vector.replicate 32 (Vector.replicate 64 false)

/-- `(y0 + row) mod 32` (43_display.md R140, R143). -/
def wrapRow (y0 : Byte) (row : Nat) : Fin 32 := ⟨(y0.toNat + row) % 32, Nat.mod_lt _ (by decide)⟩

/-- `(x0 + col) mod 64` (43_display.md R140, R143). -/
def wrapCol (x0 : Byte) (col : Nat) : Fin 64 := ⟨(x0.toNat + col) % 64, Nat.mod_lt _ (by decide)⟩

/-- The sprite bit of column `col`, 0 to 7: bit `7 - col` of the byte (43_display.md R141). UNVERIFIED (log 16). -/
def spriteBit (b : Byte) (col : Nat) : Bool := b.getLsbD (7 - col)

/-- One cell of a draw: a 1 bit flips its pixel and collides where the pixel was on; a 0 bit changes nothing
(43_display.md R143). The pair is the display and the collision so far. -/
def drawCell (x0 y0 : Byte) (row col : Nat) (bit : Bool) (acc : Display × Bool) : Display × Bool :=
  if bit then
    let r := wrapRow y0 row
    let c := wrapCol x0 col
    (Display.setPixel acc.1 r c (!(Display.pixel acc.1 r c)), acc.2 || Display.pixel acc.1 r c)
  else acc

/-- Columns 0 to `n - 1` of one sprite row (43_display.md R143). -/
def drawCols (x0 y0 : Byte) (row : Nat) (b : Byte) (n : Nat) (acc : Display × Bool) : Display × Bool :=
  match n with
  | 0 => acc
  | col + 1 => drawCell x0 y0 row col (spriteBit b col) (drawCols x0 y0 row b col acc)

/-- The sprite rows from row number `row` on (43_display.md R143). -/
def drawRows (x0 y0 : Byte) (row : Nat) (bytes : List Byte) (acc : Display × Bool) : Display × Bool :=
  match bytes with
  | [] => acc
  | b :: rest => drawRows x0 y0 (row + 1) rest (drawCols x0 y0 row b 8 acc)

/-- `Draw(x0, y0, bytes)`: the new display and the collision (43_display.md R143). -/
def draw (d : Display) (x0 y0 : Byte) (bytes : List Byte) : Display × Bool := drawRows x0 y0 0 bytes (d, false)

/-- CLS (43_display.md R142). -/
def execCls (s : State) : Result := .next (s.redraw Display.clear).advance

/-- The effect of DRW once its range is checked: the coordinates are read before VF is written (43_display.md R144). -/
def State.drawSprite (s : State) (x y : RegIdx) (n : Fin 16) : State :=
  let out := draw s.disp (s.readV x) (s.readV y) (s.loadBytes (s.dataAddr 0) n.val)
  (s.writeV VF (flagOf out.2)).redraw out.1

/-- DRW Vx,Vy,n (43_display.md R144). -/
def execDrwVxVyN (x y : RegIdx) (n : Fin 16) (s : State) : Result :=
  s.withDataRange n.val (encode (.drwVxVyN x y n)) (fun s => s.drawSprite x y n)

end Sys2Proof.Machine
end

