-- ==== Sys2Proof/Machine/IndexMemory.lean ====
section
/-! DEFINITION. The meanings of the address-register and memory-transfer instructions (42_index_memory.md). All are
sequential; the last three check their whole range first. -/

namespace Sys2Proof.Machine

/-- LD I,addr (42_index_memory.md R121). -/
def execLdIAddr (nnn : Addr12) (s : State) : Result := .next (s.setI (addrOf nnn)).advance

/-- ADD I,Vx: modulo 65536, no flag (42_index_memory.md R122). -/
def execAddIVx (x : RegIdx) (s : State) : Result := .next (s.setI (s.i + (s.readV x).setWidth 16)).advance

/-- LD F,Vx (42_index_memory.md R124). -/
def execLdFVx (x : RegIdx) (s : State) : Result := .next (s.setI (glyphAddr s.cfg (s.readV x))).advance

/-- LD B,Vx (42_index_memory.md R126). -/
def execLdBVx (x : RegIdx) (s : State) : Result :=
  s.withDataRange 3 (encode (.ldBVx x)) (fun s => s.storeBytes (s.dataAddr 0) (bcdDigits (s.readV x)))

/-- LD [I],Vx: I unchanged (42_index_memory.md R128). -/
def execLdMemVx (x : RegIdx) (s : State) : Result :=
  s.withDataRange (x.val + 1) (encode (.ldMemVx x)) (fun s => s.storeBytes (s.dataAddr 0) (s.regRun x))

/-- LD Vx,[I]: I unchanged (42_index_memory.md R130). -/
def execLdVxMem (x : RegIdx) (s : State) : Result :=
  s.withDataRange (x.val + 1) (encode (.ldVxMem x))
    (fun s => { s with v := loadRegs s.cfg s.mem (s.dataAddr 0) (x.val + 1) s.v })

end Sys2Proof.Machine
end

