-- ==== Sys2Proof/Machine/LoadAlu.lean ====
section
/-! DEFINITION. The meanings of the register loads and the arithmetic-logic unit (41_load_alu.md). All are sequential; none
can halt. -/

namespace Sys2Proof.Machine

/-- LD Vx,kk (41_load_alu.md R101). -/
def execLdVxKk (x : RegIdx) (kk : Byte) (s : State) : Result := .next (s.writeV x kk).advance

/-- ADD Vx,kk: no flag (41_load_alu.md R102). -/
def execAddVxKk (x : RegIdx) (kk : Byte) (s : State) : Result := .next (s.writeV x (s.readV x + kk)).advance

/-- LD Vx,Vy (41_load_alu.md R103). -/
def execLdVxVy (x y : RegIdx) (s : State) : Result := .next (s.writeV x (s.readV y)).advance

/-- OR Vx,Vy: no flag (41_load_alu.md R104). -/
def execOrVxVy (x y : RegIdx) (s : State) : Result := .next (s.writeV x (s.readV x ||| s.readV y)).advance

/-- AND Vx,Vy: no flag (41_load_alu.md R105). -/
def execAndVxVy (x y : RegIdx) (s : State) : Result := .next (s.writeV x (s.readV x &&& s.readV y)).advance

/-- XOR Vx,Vy: no flag (41_load_alu.md R106). -/
def execXorVxVy (x y : RegIdx) (s : State) : Result := .next (s.writeV x (s.readV x ^^^ s.readV y)).advance

/-- ADD Vx,Vy (41_load_alu.md R107). -/
def execAddVxVy (x y : RegIdx) (s : State) : Result :=
  let a := s.readV x
  let b := s.readV y
  .next (s.writeResultThenFlag x (a + b) (carryFlag a b)).advance

/-- SUB Vx,Vy (41_load_alu.md R108). -/
def execSubVxVy (x y : RegIdx) (s : State) : Result :=
  let a := s.readV x
  let b := s.readV y
  .next (s.writeResultThenFlag x (a - b) (notBorrowFlag a b)).advance

/-- SUBN Vx,Vy (41_load_alu.md R110). -/
def execSubnVxVy (x y : RegIdx) (s : State) : Result :=
  let a := s.readV x
  let b := s.readV y
  .next (s.writeResultThenFlag x (b - a) (notBorrowFlag b a)).advance

/-- SHR Vx, for either SHIFT_SRC (41_load_alu.md R109). -/
def execShrVx (x y : RegIdx) (s : State) : Result :=
  let s1 := s.shiftSource x y
  .next (s1.writeFlagThenResult x (lowBitFlag (s1.readV x)) (fun b => b >>> 1)).advance

/-- SHL Vx, for either SHIFT_SRC (41_load_alu.md R111). -/
def execShlVx (x y : RegIdx) (s : State) : Result :=
  let s1 := s.shiftSource x y
  .next (s1.writeFlagThenResult x (highBitFlag (s1.readV x)) (fun b => b <<< 1)).advance

/-- The effect of RND given the free byte (41_load_alu.md R113). -/
def State.random (s : State) (rnd : Byte) (x : RegIdx) (kk : Byte) : State :=
  { s.writeV x (rnd &&& kk) with rndCount := s.rndCount + 1 }

/-- RND Vx,kk: a free byte of its own for each execution (41_load_alu.md R113; log 3). -/
def execRndVxKk (x : RegIdx) (kk : Byte) (s : State) : Result :=
  .next (s.random (Config.rnd s.rndCount) x kk).advance

end Sys2Proof.Machine
end

