-- ==== Sys2Proof/Machine/TimersKeys.lean ====
section
/-! DEFINITION. The meanings of the timer and keypad instructions, and the polling step of the key wait
(44_timers_keys.md). -/

namespace Sys2Proof.Machine

/-- LD Vx,DT (44_timers_keys.md R150). -/
def execLdVxDt (x : RegIdx) (s : State) : Result := .next (s.writeV x s.dt).advance

/-- LD DT,Vx (44_timers_keys.md R151). -/
def execLdDtVx (x : RegIdx) (s : State) : Result := .next (s.setDt (s.readV x)).advance

/-- LD ST,Vx (44_timers_keys.md R152). -/
def execLdStVx (x : RegIdx) (s : State) : Result := .next (s.setSt (s.readV x)).advance

/-- `keys[k]`. -/
def State.keyDown (s : State) (k : KeyIdx) : Bool := s.keys[k.val]

/-- SKP Vx (44_timers_keys.md R154). -/
def execSkpVx (x : RegIdx) (s : State) : Result := .next (s.skipIf (s.keyDown (keyOf (s.readV x))))

/-- SKNP Vx (44_timers_keys.md R155). -/
def execSknpVx (x : RegIdx) (s : State) : Result := .next (s.skipIf (!(s.keyDown (keyOf (s.readV x)))))

/-- LD Vx,K, the entering step: PC stays, the latches are set (44_timers_keys.md R157). -/
def State.beginWait (s : State) (x : RegIdx) : State :=
  { s with waitReg := x, keyPrev := s.keys, runState := .awaitingKey }

/-- LD Vx,K (44_timers_keys.md R157). -/
def execLdVxK (x : RegIdx) (s : State) : Result := .next (s.beginWait x)

/-- The keys in rising order of their ids. -/
def allKeys : List KeyIdx := [0, 1, 2, 3, 4, 5, 6, 7, 8, 9, 10, 11, 12, 13, 14, 15]

/-- Key `k` is down now and was up at the previous poll (44_timers_keys.md R158). -/
def State.rising (s : State) (k : KeyIdx) : Bool := s.keys[k.val] && !s.keyPrev[k.val]

/-- `PollKey()`: the lowest rising key completes the wait; with none, the key state is remembered
(44_timers_keys.md R158). -/
def State.pollKey (s : State) : State :=
  match allKeys.find? (fun k => s.rising k) with
  | some k => { (s.writeV s.waitReg (BitVec.ofNat 8 k.val)).advance with runState := .running }
  | none => { s with keyPrev := s.keys }

end Sys2Proof.Machine
end

