-- ==== Sys2Proof/Machine/Step.lean ====
section
/-! DEFINITION. The event `Step`, one pass of the execution cycle (40_control_flow.md R80), and the placing of one
instruction where the next step fetches it. -/

namespace Sys2Proof.Machine

/-- `Step()` in `Running`: fetch, decode, execute; `exec` also moves the program counter (40_control_flow.md R80, R81). -/
def State.cycle (s : State) : Result :=
  match s.fetchWord? with
  | none => .next (s.raiseHalt .fetchOutOfBounds 0)
  | some w =>
    match decodeWord w with
    | .error _ => .next (s.raiseHalt .unknownOpcode w)
    | .ok i => exec i s

/-- `Step()` (40_control_flow.md R80): nothing in `Halted`, one key poll in `AwaitingKey`, one instruction in `Running`. -/
def step (s : State) : Result :=
  match s.runState with
  | .halted => .next s
  | .awaitingKey => .next s.pollKey
  | .running => s.cycle

/-- The word of `nbits` bits `w` stored at the program counter, big-endian, in a state that runs. Where no fetch is
possible at the program counter (PC > 4094), the program counter is the entry point first. DESIGN CHOICE (log 24). -/
def State.withFetchWord (s : State) (nbits w : Nat) : State :=
  let pc : Word := if s.pc.toNat > 4094 then BitVec.ofNat 16 progBase else s.pc
  { s.storeBytes pc.toNat (bytesOfWord (BitVec.ofNat 16 (w % 2 ^ nbits))) with pc := pc, runState := .running }

end Sys2Proof.Machine
end

