-- ==== Sys2Proof/Machine/Events.lean ====
section
/-! DEFINITION. The external events, atomic and applied one at a time (00_scope.md R6, 60_exceptions.md R176 to R181,
R184), and sequences of them. -/

namespace Sys2Proof.Machine

/-- One timer's tick: decremented toward 0 and clamped there (60_exceptions.md R184). -/
def tickDown (b : Byte) : Byte := if b.toNat > 0 then b - 1 else b

/-- `Tick()` (60_exceptions.md R184). -/
def State.tick (s : State) : State :=
  match s.runState with
  | .halted => s
  | .running | .awaitingKey => { s with dt := tickDown s.dt, st := tickDown s.st }

/-- `KeySet(k, b)`: `keys[k] <- b` in every run state (60_exceptions.md R178). -/
def State.keySet (s : State) (k : KeyIdx) (b : Bool) : State := { s with keys := s.keys.set k.val b }

/-- `RedrawAck`: `needs_redraw <- 0` in every run state (60_exceptions.md R179). -/
def State.redrawAck (s : State) : State := { s with needsRedraw := false }

/-- `Stop` (60_exceptions.md R180). -/
def State.stop (s : State) : State :=
  match s.runState with
  | .halted => s
  | .running | .awaitingKey => s.raiseHalt .stopRequested 0

/-- The six events (60_exceptions.md R176). -/
inductive Event where
  | reset (rom : List Byte)
  | step
  | tick
  | keySet (k : KeyIdx) (b : Bool)
  | redrawAck
  | stop
  deriving DecidableEq, Repr

/-- One event applied (60_exceptions.md R176). -/
def applyEvent (e : Event) (s : State) : Result :=
  match e with
  | .reset rom => .next (s.resetWith rom)
  | .step => step s
  | .tick => .next s.tick
  | .keySet k b => .next (s.keySet k b)
  | .redrawAck => .next s.redrawAck
  | .stop => .next s.stop

/-- A sequence of events, in any order the driver chooses (60_exceptions.md R181; log 22). -/
def runEvents (es : List Event) (s : State) : Result :=
  match es with
  | [] => .next s
  | e :: rest =>
    match applyEvent e s with
    | .next s' => runEvents rest s'
    | .fault r => .fault r
    | .refused r => .refused r

/-- One iteration of the driver loop: one or more `Step`, one `Tick`, any `KeySet`s, at most one `RedrawAck`
(60_exceptions.md R181). `moreSteps` counts the steps beyond the first. -/
def driverIteration (moreSteps : Nat) (keyWrites : List (KeyIdx × Bool)) (ack : Bool) : List Event :=
  List.replicate (moreSteps + 1) .step ++ [.tick] ++ keyWrites.map (fun p => .keySet p.1 p.2) ++
    (if ack then [.redrawAck] else [])

end Sys2Proof.Machine
end

