-- ==== Sys2Proof/Machine/Outputs.lean ====
section
/-! DEFINITION. The outputs a host reads between events (60_exceptions.md R187 to R190, 10_state.md R28, 20_memory.md R53).
Reading one changes nothing (60_exceptions.md R176). -/

namespace Sys2Proof.Machine

/-- The sound output: on while ST is not 0 (10_state.md R28). UNVERIFIED (log 16). -/
def State.sound (s : State) : Bool := s.st != 0

/-- The numeric code of a halt cause (60_exceptions.md R171). -/
def HaltCause.code (c : HaltCause) : Nat :=
  match c with
  | .none => 0
  | .fetchOutOfBounds => 1
  | .dataOutOfBounds => 2
  | .stackOverflow => 3
  | .stackUnderflow => 4
  | .unknownOpcode => 5
  | .stopRequested => 6
  | .romTooLarge => 7

/-- The optional memory dump: the bytes from 0x200 to the end (20_memory.md R53). -/
def State.memoryDump (s : State) : List Byte := s.loadBytes progBase romMax

/-- The read-only outputs of the block (60_exceptions.md R187 to R190). -/
structure Outputs where
  disp : Display
  needsRedraw : Bool
  sound : Bool
  runState : RunState
  haltCause : HaltCause
  haltAddr : Word
  haltWord : Word
  deriving DecidableEq, Repr

/-- What the host sees of a state (92_eei_decisions.md D1). -/
def State.outputs (s : State) : Outputs :=
  { disp := s.disp, needsRedraw := s.needsRedraw, sound := s.sound, runState := s.runState, haltCause := s.haltCause,
    haltAddr := s.haltAddr, haltWord := s.haltWord }

end Sys2Proof.Machine
end

