-- ==== Sys2Proof/Safety.lean ====
section
/-! DEFINITION. The terms claims use: which parts of the state stay as they were, the machine's invariant (10_state.md R30),
and what the halted snapshot keeps (60_exceptions.md R173). -/

namespace Sys2Proof

open Sys2Proof.Machine

/-- The general registers an instruction may write: its destination, VF where it writes a flag, or the run V0 to Vx
(10_state.md R11, R12). LD Vx,K writes none in its entering step (44_timers_keys.md R157). -/
def Instr.writesReg (i : Instr) (j : RegIdx) : Bool :=
  match i with
  | .ldVxKk x _ | .addVxKk x _ | .rndVxKk x _ | .ldVxDt x => j == x
  | .ldVxVy x _ | .orVxVy x _ | .andVxVy x _ | .xorVxVy x _ => j == x
  | .addVxVy x _ | .subVxVy x _ | .subnVxVy x _ | .shrVx x _ | .shlVx x _ => j == x || j == VF
  | .drwVxVyN _ _ _ => j == VF
  | .ldVxMem x => decide (j ≤ x)
  | .sys _ | .cls | .ret | .jp _ | .call _ | .jpV0Addr _ | .seVxKk _ _ | .sneVxKk _ _ | .seVxVy _ _ | .sneVxVy _ _
  | .ldIAddr _ | .skpVx _ | .sknpVx _ | .ldVxK _ | .ldDtVx _ | .ldStVx _ | .addIVx _ | .ldFVx _ | .ldBVx _
  | .ldMemVx _ => false

/-- How many bytes at I an instruction accesses (20_memory.md R44, 60_exceptions.md R171). -/
def Instr.dataLen (i : Instr) : Nat :=
  match i with
  | .drwVxVyN _ _ n => n.val
  | .ldBVx _ => 3
  | .ldMemVx x | .ldVxMem x => x.val + 1
  | .sys _ | .cls | .ret | .jp _ | .call _ | .jpV0Addr _ | .seVxKk _ _ | .sneVxKk _ _ | .seVxVy _ _ | .sneVxVy _ _
  | .ldVxKk _ _ | .addVxKk _ _ | .ldVxVy _ _ | .orVxVy _ _ | .andVxVy _ _ | .xorVxVy _ _ | .addVxVy _ _
  | .subVxVy _ _ | .shrVx _ _ | .subnVxVy _ _ | .shlVx _ _ | .ldIAddr _ | .rndVxKk _ _ | .skpVx _ | .sknpVx _
  | .ldVxDt _ | .ldVxK _ | .ldDtVx _ | .ldStVx _ | .addIVx _ | .ldFVx _ => 0

/-- Whether the instruction's own rule writes PC: the transfer and the skip class (40_control_flow.md R81). -/
def Instr.writesPc (i : Instr) : Bool :=
  match i with
  | .jp _ | .call _ | .ret | .jpV0Addr _ | .seVxKk _ _ | .sneVxKk _ _ | .seVxVy _ _ | .sneVxVy _ _ | .skpVx _
  | .sknpVx _ => true
  | .sys _ | .cls | .ldVxKk _ _ | .addVxKk _ _ | .ldVxVy _ _ | .orVxVy _ _ | .andVxVy _ _ | .xorVxVy _ _
  | .addVxVy _ _ | .subVxVy _ _ | .shrVx _ _ | .subnVxVy _ _ | .shlVx _ _ | .ldIAddr _ | .rndVxKk _ _
  | .drwVxVyN _ _ _ | .ldVxDt _ | .ldVxK _ | .ldDtVx _ | .ldStVx _ | .addIVx _ | .ldFVx _ | .ldBVx _ | .ldMemVx _
  | .ldVxMem _ => false

/-- Whether a skip instruction's condition holds (40_control_flow.md R89 to R92, 44_timers_keys.md R154, R155); for every
other instruction, false. -/
def Instr.skips (i : Instr) (s : State) : Bool :=
  match i with
  | .seVxKk x kk => s.readV x == kk
  | .sneVxKk x kk => s.readV x != kk
  | .seVxVy x y => s.readV x == s.readV y
  | .sneVxVy x y => s.readV x != s.readV y
  | .skpVx x => s.keys[(s.readV x).toNat % 16]'(Nat.mod_lt _ (by decide))
  | .sknpVx x => !(s.keys[(s.readV x).toNat % 16]'(Nat.mod_lt _ (by decide)))
  | .sys _ | .cls | .ret | .jp _ | .call _ | .jpV0Addr _ | .ldVxKk _ _ | .addVxKk _ _ | .ldVxVy _ _ | .orVxVy _ _
  | .andVxVy _ _ | .xorVxVy _ _ | .addVxVy _ _ | .subVxVy _ _ | .shrVx _ _ | .subnVxVy _ _ | .shlVx _ _
  | .ldIAddr _ | .rndVxKk _ _ | .drwVxVyN _ _ _ | .ldVxDt _ | .ldVxK _ | .ldDtVx _ | .ldStVx _ | .addIVx _
  | .ldFVx _ | .ldBVx _ | .ldMemVx _ | .ldVxMem _ => false

/-- The PC an instruction that does not halt leaves, as a natural number: the table of PC classes
(40_control_flow.md R81, with the targets of R84, R85, R86 and R88). -/
def Instr.pcAfter (i : Instr) (s : State) : Nat :=
  match i with
  | .jp nnn | .call nnn => nnn.toNat
  | .jpV0Addr nnn => nnn.toNat + (s.readV 0).toNat
  | .ret => (s.stack[s.sp.val - 1]'(by have := s.sp.isLt; simp only [stackDepth]; omega)).toNat
  | .seVxKk _ _ | .sneVxKk _ _ | .seVxVy _ _ | .sneVxVy _ _ | .skpVx _ | .sknpVx _ =>
    s.pc.toNat + if i.skips s then 4 else 2
  | .ldVxK _ | .sys _ => s.pc.toNat
  | .cls | .ldVxKk _ _ | .addVxKk _ _ | .ldVxVy _ _ | .orVxVy _ _ | .andVxVy _ _ | .xorVxVy _ _ | .addVxVy _ _
  | .subVxVy _ _ | .shrVx _ _ | .subnVxVy _ _ | .shlVx _ _ | .ldIAddr _ | .rndVxKk _ _ | .drwVxVyN _ _ _
  | .ldVxDt _ | .ldDtVx _ | .ldStVx _ | .addIVx _ | .ldFVx _ | .ldBVx _ | .ldMemVx _ | .ldVxMem _ => s.pc.toNat + 2

end Sys2Proof

namespace Sys2Proof.Machine

/-- The parts of the state beside the general registers, for saying what an instruction leaves alone. -/
inductive Part where
  | i
  | pc
  | callStack
  | dt
  | st
  | memory
  | disp
  | keys
  | needsRedraw
  | runState
  | waitLatches
  | haltRecord
  | cfg
  | rndCount
  deriving DecidableEq, Repr

/-- The part reads in `t` as it read in `s`; memory is compared byte by byte, through its read. -/
def Part.kept (p : Part) (s t : State) : Prop :=
  match p with
  | .i => t.i = s.i
  | .pc => t.pc = s.pc
  | .callStack => t.sp = s.sp ∧ t.stack = s.stack
  | .dt => t.dt = s.dt
  | .st => t.st = s.st
  | .memory => ∀ a, t.memByte a = s.memByte a
  | .disp => t.disp = s.disp
  | .keys => t.keys = s.keys
  | .needsRedraw => t.needsRedraw = s.needsRedraw
  | .runState => t.runState = s.runState
  | .waitLatches => t.waitReg = s.waitReg ∧ t.keyPrev = s.keyPrev
  | .haltRecord => t.haltCause = s.haltCause ∧ t.haltAddr = s.haltAddr ∧ t.haltWord = s.haltWord
  | .cfg => t.cfg = s.cfg
  | .rndCount => t.rndCount = s.rndCount

/-- Every part but those listed is as it was. -/
def keptExcept (ps : List Part) (s t : State) : Prop := ∀ p, p ∉ ps → p.kept s t

/-- Every general register but those listed is as it was. -/
def regsKeptExcept (xs : List RegIdx) (s t : State) : Prop := ∀ j, j ∉ xs → t.readV j = s.readV j

/-- Every byte of memory outside `a`, ..., `a + len - 1` reads as it did. -/
def memoryKeptOutside (a len : Nat) (s t : State) : Prop := ∀ b, ¬(a ≤ b ∧ b < a + len) → t.memByte b = s.memByte b

/-- The words that match no executable instruction, by top nibble and low nibble or byte (30_encoding.md R70). -/
def isUnknownWord (w : Word) : Prop :=
  (w.toNat / 4096 = 0 ∧ w ≠ 0x00E0 ∧ w ≠ 0x00EE) ∨ (w.toNat / 4096 = 5 ∧ w.toNat % 16 ≠ 0) ∨
  (w.toNat / 4096 = 8 ∧ w.toNat % 16 ∈ [8, 9, 10, 11, 12, 13, 15]) ∨ (w.toNat / 4096 = 9 ∧ w.toNat % 16 ≠ 0) ∨
  (w.toNat / 4096 = 14 ∧ w.toNat % 256 ∉ [0x9E, 0xA1]) ∨
  (w.toNat / 4096 = 15 ∧ w.toNat % 256 ∉ [0x07, 0x0A, 0x15, 0x18, 0x1E, 0x29, 0x33, 0x55, 0x65])

/-- A key-press edge: the key is down now and was up at the previous poll (44_timers_keys.md R158). -/
def pressEdge (s : State) (k : KeyIdx) : Prop := s.keys[k.val] = true ∧ s.keyPrev[k.val] = false

/-- A 1 bit of the sprite drawn at column `x0` and row `y0` falls on the pixel (r, c): the bit of cell (row, col) is bit
`7 - col` of byte number `row`, and its target is `((x0 + col) mod 64, (y0 + row) mod 32)` (43_display.md R140, R141). -/
def spriteCovers (x0 y0 : Byte) (bytes : List Byte) (r : Fin 32) (c : Fin 64) : Prop :=
  ∃ row col b, bytes[row]? = some b ∧ col < 8 ∧ b.getLsbD (7 - col) = true ∧
    (y0.toNat + row) % 32 = r.val ∧ (x0.toNat + col) % 64 = c.val

/-- `t` is `s` halted with a cause and a word, and nothing else changed: the snapshot (60_exceptions.md R170, R173). -/
def haltedFrom (cause : HaltCause) (word : Word) (s t : State) : Prop :=
  t.runState = .halted ∧ t.haltCause = cause ∧ t.haltAddr = s.pc ∧ t.haltWord = word ∧
  regsKeptExcept [] s t ∧ keptExcept [.runState, .haltRecord] s t

/-- The parts an instruction may write when it does not halt: I (10_state.md R14), the stack (R15), DT (R16), ST (R17),
memory (20_memory.md R40), the display and `needs_redraw` (10_state.md R20, R22), the wait (R23, R24), the count of free
bytes (log 3); PC is written by all but LD Vx,K (40_control_flow.md R81) and SYS, which always halts. -/
def Part.writtenBy (p : Part) (i : Instr) : Bool :=
  match p, i with
  | .pc, .ldVxK _ | .pc, .sys _ => false
  | .pc, _ => true
  | .i, .ldIAddr _ | .i, .addIVx _ | .i, .ldFVx _ => true
  | .callStack, .call _ | .callStack, .ret => true
  | .dt, .ldDtVx _ => true
  | .st, .ldStVx _ => true
  | .memory, .ldBVx _ | .memory, .ldMemVx _ => true
  | .disp, .cls | .disp, .drwVxVyN _ _ _ => true
  | .needsRedraw, .cls | .needsRedraw, .drwVxVyN _ _ _ => true
  | .waitLatches, .ldVxK _ | .runState, .ldVxK _ => true
  | .rndCount, .rndVxKk _ _ => true
  | _, _ => false

/-- When an instruction raises a cause: the column "condition" of the table of causes, for the causes that instructions
raise (60_exceptions.md R171). -/
def haltCondition (c : HaltCause) (i : Instr) (s : State) : Prop :=
  match c with
  | .dataOutOfBounds => i.dataLen > 0 ∧ s.i.toNat + i.dataLen - 1 > 4095
  | .stackOverflow => (∃ nnn, i = .call nnn) ∧ s.sp.val = 16
  | .stackUnderflow => i = .ret ∧ s.sp.val = 0
  | .unknownOpcode => ∃ nnn, i = .sys nnn
  | .none | .fetchOutOfBounds | .stopRequested | .romTooLarge => False

/-- The invariant of the machine (10_state.md R30), with the canonical form of memory and the content of the halt
registers. That `V[i]`, DT, ST and I keep their widths and SP its range 0 to 16 is in the types of State. -/
structure State.Inv (s : State) : Prop where
  /-- Memory is in its canonical form. -/
  memory : Memory.wf s.cfg s.mem
  /-- PC is at most 4350. -/
  pc : s.pc.toNat ≤ 4350
  /-- Every live stack entry is in 2 to 4096. -/
  liveStack : ∀ j : Fin 16, j.val < s.sp.val → 2 ≤ s.stack[j.val].toNat ∧ s.stack[j.val].toNat ≤ 4096
  /-- While waiting, the word at PC is LD Vx,K with x = wait_reg. -/
  waiting : s.runState = .awaitingKey → ∃ w, s.fetchWord? = some w ∧ decodeWord w = .ok (.ldVxK s.waitReg)
  /-- A cause is recorded exactly in Halted. -/
  cause : s.haltCause ≠ .none ↔ s.runState = .halted
  /-- In Halted, PC keeps the recorded address. -/
  snapshot : s.runState = .halted → s.haltAddr = s.pc
  /-- Outside Halted the diagnostic registers are 0. -/
  noRecord : s.runState ≠ .halted → s.haltAddr = 0 ∧ s.haltWord = 0

end Sys2Proof.Machine
end

