-- ==== Sys2Proof/Certificates/Slice0/Obligations.lean ====
section
/-! DEFINITION. The statements for the provers. Frames are in the terms of Sys2Proof/Safety.lean: `regsKeptExcept xs` says
that every general register outside `xs` is unchanged, `keptExcept ps` that every other part of the state outside `ps` is,
memory byte by byte. A docstring that names a decision (D...) or general knowledge (G...) says that the statement rests on
what the spec itself marks so. -/

open Sys2Proof Sys2Proof.Machine

/-! ## Encoding -/

/-- Words written out from 30_encoding.md R64 and the vectors DEC1 to DEC6 of 95_test_vectors.md. The numbers are general
knowledge (G1; log 11). -/
def Obligations.WordsOfTheOpcodeMapDecode : Prop :=
  decode [0xD1, 0x2A] = .ok (.drwVxVyN 1 2 10, []) ∧ decode [0x8A, 0xB4] = .ok (.addVxVy 10 11, []) ∧
  decode [0xFE, 0x65] = .ok (.ldVxMem 14, []) ∧ decode [0x00, 0xE0] = .ok (.cls, []) ∧
  decode [0x00, 0xEE] = .ok (.ret, []) ∧ decode [0x01, 0xE0] = .ok (.sys 0x1E0, []) ∧
  decode [0x23, 0x00] = .ok (.call 0x300, []) ∧ decode [0x51, 0x21] = .error (.unknownOpcode 0x5121) ∧
  decode [0xE2, 0xA1] = .ok (.sknpVx 2, []) ∧ decode [0xC3, 0x0F] = .ok (.rndVxKk 3 0x0F, [])

/-- Decoding the bytes of any well-formed instruction, whatever follows them, gives it back with every operand, and leaves
what follows. -/
def Obligations.DecodeOfEncodeGivesTheInstructionBack : Prop :=
  ∀ (i : Instr) (rest : List Byte), i.wellFormed = true → decode (encodeBytes i ++ rest) = .ok (i, rest)

/-- Each word has one meaning: a word that decodes is the word its instruction encodes to, and that instruction is
well-formed. So no bit of a word is dropped, and the `halt_word` an instruction records is the word it was fetched as
(log 7). -/
def Obligations.EncodeOfDecodeGivesTheWordBack : Prop :=
  ∀ (w : Word) (i : Instr), decodeWord w = .ok i → i.wellFormed = true ∧ encode i = w

/-- The five fields are the slices of 30_encoding.md R61, as numbers. -/
def Obligations.FieldsAreSlicesOfTheWord : Prop :=
  ∀ w : Word, (fieldNnn w).toNat = w.toNat % 4096 ∧ (fieldN w).val = w.toNat % 16 ∧
    (fieldX w).val = w.toNat / 256 % 16 ∧ (fieldY w).val = w.toNat / 16 % 16 ∧ (fieldKk w).toNat = w.toNat % 256

/-- 30_encoding.md R70: the words outside the table of unknown words decode to an executable instruction, which is not SYS;
a word in the table, fetched in Running, halts with UnknownOpcode, PC and word recorded, PC not advanced and nothing else
changed. The map rests on D10, D13 and G1 (log 11), SYS on D11 (log 12). -/
def Obligations.UnknownWordsHaltAndAllOthersDecode : Prop :=
  (∀ w : Word, ¬isUnknownWord w → ∃ i, decodeWord w = .ok i ∧ ∀ nnn, i ≠ .sys nnn) ∧
  (∀ (s : State) (w : Word), s.runState = .running → s.fetchWord? = some w → isUnknownWord w →
    ∃ t, step s = .next t ∧ haltedFrom .unknownOpcode w s t)

/-! ## The execution cycle -/

/-- 40_control_flow.md R80, clause by clause: nothing in Halted; one poll in AwaitingKey; in Running a failed fetch halts,
an unknown word halts, and a decoded instruction runs, after which, if its rule did not write PC and the machine still runs,
PC is 2 further, and if it raised a halt, nothing but the halt happened. -/
def Obligations.StepRunsTheDecodedInstruction : Prop :=
  (∀ s : State, s.runState = .halted → step s = .next s) ∧
  (∀ s : State, s.runState = .awaitingKey → step s = .next s.pollKey) ∧
  (∀ s : State, s.runState = .running → s.fetchWord? = none →
    ∃ t, step s = .next t ∧ haltedFrom .fetchOutOfBounds 0 s t) ∧
  (∀ (s : State) (w : Word) (e : DecodeError), s.runState = .running → s.fetchWord? = some w →
    decodeWord w = .error e → ∃ t, step s = .next t ∧ haltedFrom .unknownOpcode w s t) ∧
  (∀ (s : State) (w : Word) (i : Instr), s.runState = .running → s.fetchWord? = some w → decodeWord w = .ok i →
    step s = exec i s ∧ ∀ t, exec i s = .next t →
      (i.writesPc = false → t.runState = .running → t.pc = s.pc + 2) ∧
      (t.runState = .halted → haltedFrom t.haltCause w s t))

/-- 20_memory.md R46: a fetch with PC at most 4094 gives the word `mem[PC] * 256 + mem[PC + 1]`, big-endian; in Running, a
PC above 4094 halts with FetchOutOfBounds, `halt_addr` = PC and `halt_word` = 0. -/
def Obligations.FetchIsBigEndianAndBounded : Prop :=
  (∀ s : State, s.pc.toNat ≤ 4094 →
    ∃ w, s.fetchWord? = some w ∧ w.toNat = (s.memByte s.pc.toNat).toNat * 256 + (s.memByte (s.pc.toNat + 1)).toNat) ∧
  (∀ s : State, s.runState = .running → s.pc.toNat > 4094 →
    ∃ t, step s = .next t ∧ haltedFrom .fetchOutOfBounds 0 s t)

/-- The table of PC classes of 40_control_flow.md R81 (net skip effect D8, call and return D7, JP V0 D12), on natural
numbers, for every instruction that a fetch could have reached and that does not halt. -/
def Obligations.ProgramCounterFollowsItsClass : Prop :=
  ∀ (i : Instr) (s t : State), s.pc.toNat ≤ 4094 → exec i s = .next t → t.runState ≠ .halted →
    t.pc.toNat = i.pcAfter s

/-- No step and no event ends in a fault or a refusal: every sequence of events, from every state, ends in a state
(60_exceptions.md R170, R174: halting is the one exception mechanism, and Halted still takes events; log 6). -/
def Obligations.EveryEventSequenceCompletes : Prop :=
  ∀ (es : List Event) (s : State), ∃ t, runEvents es s = .next t

/-- 20_memory.md R50 (derived from R46, R48), for both storing instructions, LD [I],Vx and LD B,Vx: where the next word can
be fetched, each of its two bytes is the stored one where the instruction stored to it, and the old one where it did not.
The j-th digit that LD B,Vx stores is `Vx div 10^(2 - j) mod 10`. The next word stands at PC + 2. -/
def Obligations.StoreIsSeenByTheNextFetch : Prop :=
  (∀ (x : RegIdx) (s : State), Memory.wf s.cfg s.mem → s.dataAddr x.val ≤ 4095 → s.pc.toNat ≤ 4092 →
    ∃ t w, exec (.ldMemVx x) s = .next t ∧ t.fetchWord? = some w ∧
      (∀ j : RegIdx, j ≤ x → s.dataAddr j.val = s.pc.toNat + 2 → w.toNat / 256 = (s.readV j).toNat) ∧
      (∀ j : RegIdx, j ≤ x → s.dataAddr j.val = s.pc.toNat + 3 → w.toNat % 256 = (s.readV j).toNat) ∧
      ((∀ j : RegIdx, j ≤ x → s.dataAddr j.val ≠ s.pc.toNat + 2) →
        w.toNat / 256 = (s.memByte (s.pc.toNat + 2)).toNat) ∧
      ((∀ j : RegIdx, j ≤ x → s.dataAddr j.val ≠ s.pc.toNat + 3) →
        w.toNat % 256 = (s.memByte (s.pc.toNat + 3)).toNat)) ∧
  (∀ (x : RegIdx) (s : State), Memory.wf s.cfg s.mem → s.dataAddr 2 ≤ 4095 → s.pc.toNat ≤ 4092 →
    ∃ t w, exec (.ldBVx x) s = .next t ∧ t.fetchWord? = some w ∧
      (∀ j : Fin 3, s.dataAddr j.val = s.pc.toNat + 2 → w.toNat / 256 = (s.readV x).toNat / 10 ^ (2 - j.val) % 10) ∧
      (∀ j : Fin 3, s.dataAddr j.val = s.pc.toNat + 3 → w.toNat % 256 = (s.readV x).toNat / 10 ^ (2 - j.val) % 10) ∧
      ((∀ j : Fin 3, s.dataAddr j.val ≠ s.pc.toNat + 2) → w.toNat / 256 = (s.memByte (s.pc.toNat + 2)).toNat) ∧
      ((∀ j : Fin 3, s.dataAddr j.val ≠ s.pc.toNat + 3) → w.toNat % 256 = (s.memByte (s.pc.toNat + 3)).toNat))

/-- The model's own interface to a host (log 24), from every state with a canonical memory: after `withFetchWord` the machine
runs and the next fetch is exactly the `nbits` bits of that word; PC is as it was, or 0x200 where nothing can be fetched at
it; and no register, no other part and no byte of memory but the two at the new PC changed. -/
def Obligations.WithFetchWordPlacesTheNextWord : Prop :=
  ∀ (s : State) (nbits w : Nat), Memory.wf s.cfg s.mem →
    (s.withFetchWord nbits w).runState = .running ∧
    (s.withFetchWord nbits w).fetchWord? = some (BitVec.ofNat 16 (w % 2 ^ nbits)) ∧
    (s.withFetchWord nbits w).pc = (if s.pc.toNat ≤ 4094 then s.pc else 0x200) ∧
    memoryKeptOutside (s.withFetchWord nbits w).pc.toNat 2 s (s.withFetchWord nbits w) ∧
    regsKeptExcept [] s (s.withFetchWord nbits w) ∧ keptExcept [.memory, .pc, .runState] s (s.withFetchWord nbits w)

/-! ## Control flow -/

/-- 40_control_flow.md R83, D11: SYS always halts with UnknownOpcode, recording PC and its own word. -/
def Obligations.SysHaltsWithUnknownOpcode : Prop :=
  ∀ (nnn : Addr12) (s : State), ∃ t, exec (.sys nnn) s = .next t ∧ haltedFrom .unknownOpcode (encode (.sys nnn)) s t

/-- 40_control_flow.md R85: `PC <- nnn`; no flag, no halt. -/
def Obligations.JpSetsPcToTheAddress : Prop :=
  ∀ (nnn : Addr12) (s : State), ∃ t, exec (.jp nnn) s = .next t ∧ t.pc.toNat = nnn.toNat ∧
    regsKeptExcept [] s t ∧ keptExcept [.pc] s t

/-- 40_control_flow.md R88, D12, G3: `PC <- nnn + V[0]`, not masked. -/
def Obligations.JpV0AddsTheRegisterToTheAddress : Prop :=
  ∀ (nnn : Addr12) (s : State), ∃ t, exec (.jpV0Addr nnn) s = .next t ∧
    t.pc.toNat = nnn.toNat + (s.readV 0).toNat ∧ regsKeptExcept [] s t ∧ keptExcept [.pc] s t

/-- 40_control_flow.md R86, D7: with fewer than 16 live entries CALL pushes PC + 2, counts it and jumps; with 16 it halts
with StackOverflow and nothing else changes. -/
def Obligations.CallPushesTheReturnAddress : Prop :=
  (∀ (nnn : Addr12) (s : State), s.sp.val < 16 → ∃ t, exec (.call nnn) s = .next t ∧
    t.sp.val = s.sp.val + 1 ∧
    (∀ j : Fin 16, t.stack[j.val] = if j.val = s.sp.val then s.pc + 2 else s.stack[j.val]) ∧
    t.pc.toNat = nnn.toNat ∧ regsKeptExcept [] s t ∧ keptExcept [.pc, .callStack] s t) ∧
  (∀ (nnn : Addr12) (s : State), s.sp.val = 16 →
    ∃ t, exec (.call nnn) s = .next t ∧ haltedFrom .stackOverflow (encode (.call nnn)) s t)

/-- 40_control_flow.md R84, under the count convention of D7 (log 18), with no further advance of PC: RET counts one entry
less and jumps to it, leaving it in the array; with none it halts with StackUnderflow and nothing else changes (D4, log 17). -/
def Obligations.RetPopsTheReturnAddress : Prop :=
  (∀ (s : State) (j : Fin 16), s.sp.val = j.val + 1 → ∃ t, exec .ret s = .next t ∧
    t.sp.val = j.val ∧ t.stack = s.stack ∧ t.pc = s.stack[j.val] ∧
    regsKeptExcept [] s t ∧ keptExcept [.pc, .callStack] s t) ∧
  (∀ s : State, s.sp.val = 0 → ∃ t, exec .ret s = .next t ∧ haltedFrom .stackUnderflow (encode .ret) s t)

/-- 40_control_flow.md R87 (derived from R84, R86; D7): a CALL followed by the RET at its target comes back to the
instruction after the CALL, with SP as before, the dead entry holding that address and nothing else changed. -/
def Obligations.CallThenRetComesBack : Prop :=
  ∀ (s : State) (w w' : Word) (nnn : Addr12) (j : Fin 16), s.runState = .running → s.sp.val = j.val →
    s.fetchWord? = some w → decodeWord w = .ok (.call nnn) →
    (s.jump (addrOf nnn)).fetchWord? = some w' → decodeWord w' = .ok .ret →
    ∃ t, runEvents [.step, .step] s = .next t ∧ t.pc = s.pc + 2 ∧ t.sp = s.sp ∧
      t.stack = s.stack.set j.val (s.pc + 2) ∧ regsKeptExcept [] s t ∧ keptExcept [.pc, .callStack] s t

/-- 40_control_flow.md R89 to R92 (D8, G4): SE and SNE, with a byte or a register, skip when their condition holds. -/
def Obligations.RegisterSkipsTestTheirCondition : Prop :=
  ∀ (x y : RegIdx) (kk : Byte) (s : State),
    (∃ t, exec (.seVxKk x kk) s = .next t ∧ t.pc = (if s.readV x = kk then s.pc + 4 else s.pc + 2) ∧
      regsKeptExcept [] s t ∧ keptExcept [.pc] s t) ∧
    (∃ t, exec (.sneVxKk x kk) s = .next t ∧ t.pc = (if s.readV x = kk then s.pc + 2 else s.pc + 4) ∧
      regsKeptExcept [] s t ∧ keptExcept [.pc] s t) ∧
    (∃ t, exec (.seVxVy x y) s = .next t ∧ t.pc = (if s.readV x = s.readV y then s.pc + 4 else s.pc + 2) ∧
      regsKeptExcept [] s t ∧ keptExcept [.pc] s t) ∧
    (∃ t, exec (.sneVxVy x y) s = .next t ∧ t.pc = (if s.readV x = s.readV y then s.pc + 2 else s.pc + 4) ∧
      regsKeptExcept [] s t ∧ keptExcept [.pc] s t)

/-! ## Loads and the ALU -/

/-- 41_load_alu.md R101: `V[x] <- kk`, for every x, VF included; no flag, no halt. -/
def Obligations.LdVxKkAssignsTheByte : Prop :=
  ∀ (x : RegIdx) (kk : Byte) (s : State), ∃ t, exec (.ldVxKk x kk) s = .next t ∧ t.readV x = kk ∧ t.pc = s.pc + 2 ∧
    regsKeptExcept [x] s t ∧ keptExcept [.pc] s t

/-- 41_load_alu.md R102: `V[x] <- (V[x] + kk) mod 256`; VF is not written unless it is Vx. -/
def Obligations.AddVxKkWrapsWithoutFlag : Prop :=
  ∀ (x : RegIdx) (kk : Byte) (s : State), ∃ t, exec (.addVxKk x kk) s = .next t ∧
    (t.readV x).toNat = ((s.readV x).toNat + kk.toNat) % 256 ∧ t.pc = s.pc + 2 ∧
    regsKeptExcept [x] s t ∧ keptExcept [.pc] s t

/-- 41_load_alu.md R103: `V[x] <- V[y]`; no flag, no halt. -/
def Obligations.LdVxVyCopiesTheRegister : Prop :=
  ∀ (x y : RegIdx) (s : State), ∃ t, exec (.ldVxVy x y) s = .next t ∧ t.readV x = s.readV y ∧ t.pc = s.pc + 2 ∧
    regsKeptExcept [x] s t ∧ keptExcept [.pc] s t

/-- 41_load_alu.md R104 to R106: OR, AND and XOR combine bit by bit; VF is neither written nor cleared unless it is Vx; with
x = y, OR and AND change nothing and XOR gives 0. -/
def Obligations.BitwiseCombineWithoutFlag : Prop :=
  ∀ (x y : RegIdx) (s : State),
    (∃ t, exec (.orVxVy x y) s = .next t ∧
      (∀ b, (t.readV x).getLsbD b = ((s.readV x).getLsbD b || (s.readV y).getLsbD b)) ∧
      (x = y → t.readV x = s.readV x) ∧ t.pc = s.pc + 2 ∧ regsKeptExcept [x] s t ∧ keptExcept [.pc] s t) ∧
    (∃ t, exec (.andVxVy x y) s = .next t ∧
      (∀ b, (t.readV x).getLsbD b = ((s.readV x).getLsbD b && (s.readV y).getLsbD b)) ∧
      (x = y → t.readV x = s.readV x) ∧ t.pc = s.pc + 2 ∧ regsKeptExcept [x] s t ∧ keptExcept [.pc] s t) ∧
    (∃ t, exec (.xorVxVy x y) s = .next t ∧
      (∀ b, (t.readV x).getLsbD b = ((s.readV x).getLsbD b ^^ (s.readV y).getLsbD b)) ∧
      (x = y → t.readV x = 0) ∧ t.pc = s.pc + 2 ∧ regsKeptExcept [x] s t ∧ keptExcept [.pc] s t)

/-- 41_load_alu.md R107, and R112 (D6) for x = F: the sum modulo 256 in Vx and the carry in VF, which wins where x = F; the
old values are the operands, so y = F adds the old VF. -/
def Obligations.AddVxVyWritesSumAndCarry : Prop :=
  ∀ (x y : RegIdx) (s : State), ∃ t, exec (.addVxVy x y) s = .next t ∧
    (x ≠ VF → (t.readV x).toNat = ((s.readV x).toNat + (s.readV y).toNat) % 256) ∧
    (t.readV VF).toNat = (if (s.readV x).toNat + (s.readV y).toNat > 255 then 1 else 0) ∧ t.pc = s.pc + 2 ∧
    regsKeptExcept [x, VF] s t ∧ keptExcept [.pc] s t

/-- 41_load_alu.md R108 and R110, and R112 (D6) for x = F: the difference modulo 256 and the not-borrow flag, 1 when the
minuend is at least the subtrahend; SUB takes Vx - Vy, SUBN Vy - Vx. -/
def Obligations.SubtractionsWriteDifferenceAndNotBorrow : Prop :=
  ∀ (x y : RegIdx) (s : State),
    (∃ t, exec (.subVxVy x y) s = .next t ∧
      (x ≠ VF → (t.readV x).toNat = ((s.readV x).toNat + 256 - (s.readV y).toNat) % 256) ∧
      (t.readV VF).toNat = (if (s.readV x).toNat ≥ (s.readV y).toNat then 1 else 0) ∧ t.pc = s.pc + 2 ∧
      regsKeptExcept [x, VF] s t ∧ keptExcept [.pc] s t) ∧
    (∃ t, exec (.subnVxVy x y) s = .next t ∧
      (x ≠ VF → (t.readV x).toNat = ((s.readV y).toNat + 256 - (s.readV x).toNat) % 256) ∧
      (t.readV VF).toNat = (if (s.readV y).toNat ≥ (s.readV x).toNat then 1 else 0) ∧ t.pc = s.pc + 2 ∧
      regsKeptExcept [x, VF] s t ∧ keptExcept [.pc] s t)

/-- 41_load_alu.md R109 and R111 (D5, G8), and R112 (D6) for x = F, for both values of SHIFT_SRC: with `a` the old Vx, or
the old Vy where SHIFT_SRC = y, SHR leaves `a div 2` in Vx and `a mod 2` in VF, SHL `2 a mod 256` and `a div 128`; where
x = F, SHR leaves 0 and SHL twice the bit. -/
def Obligations.ShiftsDropOneBitIntoVf : Prop :=
  ∀ (x y : RegIdx) (s : State) (a : Byte), a = (if s.cfg.shiftSrc = .x then s.readV x else s.readV y) →
    (∃ t, exec (.shrVx x y) s = .next t ∧
      (x ≠ VF → (t.readV x).toNat = a.toNat / 2 ∧ (t.readV VF).toNat = a.toNat % 2) ∧
      (x = VF → (t.readV VF).toNat = 0) ∧ t.pc = s.pc + 2 ∧ regsKeptExcept [x, VF] s t ∧ keptExcept [.pc] s t) ∧
    (∃ t, exec (.shlVx x y) s = .next t ∧
      (x ≠ VF → (t.readV x).toNat = a.toNat * 2 % 256 ∧ (t.readV VF).toNat = a.toNat / 128) ∧
      (x = VF → (t.readV VF).toNat = 2 * (a.toNat / 128)) ∧ t.pc = s.pc + 2 ∧
      regsKeptExcept [x, VF] s t ∧ keptExcept [.pc] s t)

/-- 41_load_alu.md R113 (D18), for every value of the free byte: the result is the free byte of this execution masked by
kk, so no bit outside kk is set; the next execution takes another (log 3). -/
def Obligations.RndMasksAFreeByte : Prop :=
  ∀ (x : RegIdx) (kk : Byte) (s : State), ∃ t, exec (.rndVxKk x kk) s = .next t ∧
    t.readV x = Config.rnd s.rndCount &&& kk ∧ (∀ b, kk.getLsbD b = false → (t.readV x).getLsbD b = false) ∧
    t.rndCount = s.rndCount + 1 ∧ t.pc = s.pc + 2 ∧ regsKeptExcept [x] s t ∧ keptExcept [.pc, .rndCount] s t

/-- The law vectors of 95_test_vectors.md 2.3 (41_load_alu.md R107, R108, R114): ADD then SUB of the same other register
restores Vx, and VF is then 1 exactly when the sum did not pass 255 or Vy is 0. -/
def Obligations.AddThenSubRestoresTheRegister : Prop :=
  ∀ (x y : RegIdx) (s : State), x ≠ y → x ≠ VF → y ≠ VF →
    ∃ t u, exec (.addVxVy x y) s = .next t ∧ exec (.subVxVy x y) t = .next u ∧ u.readV x = s.readV x ∧
      (u.readV VF = 1 ↔ (s.readV x).toNat + (s.readV y).toNat ≤ 255 ∨ s.readV y = 0) ∧
      regsKeptExcept [VF] s u ∧ keptExcept [.pc] s u

/-! ## The address register and memory -/

/-- 42_index_memory.md R121: `I <- nnn`, zero-extended; no flag, no halt. -/
def Obligations.LdIAssignsTheAddress : Prop :=
  ∀ (nnn : Addr12) (s : State), ∃ t, exec (.ldIAddr nnn) s = .next t ∧ t.i.toNat = nnn.toNat ∧ t.pc = s.pc + 2 ∧
    regsKeptExcept [] s t ∧ keptExcept [.pc, .i] s t

/-- 42_index_memory.md R122 (D2) and R124 (D24): ADD I,Vx wraps at 16 bits and not at 12 and writes no flag; LD F,Vx takes
FONT_BASE + 5 Vx of the whole byte, for every FONT_BASE. -/
def Obligations.AddressRegisterArithmetic : Prop :=
  ∀ (x : RegIdx) (s : State),
    (∃ t, exec (.addIVx x) s = .next t ∧ t.i.toNat = (s.i.toNat + (s.readV x).toNat) % 65536 ∧ t.pc = s.pc + 2 ∧
      regsKeptExcept [] s t ∧ keptExcept [.pc, .i] s t) ∧
    (∃ t, exec (.ldFVx x) s = .next t ∧ t.i.toNat = s.cfg.fontBase.val + 5 * (s.readV x).toNat ∧ t.pc = s.pc + 2 ∧
      regsKeptExcept [] s t ∧ keptExcept [.pc, .i] s t)

/-- 42_index_memory.md R126: where I + 2 is a valid address, LD B,Vx stores the hundreds, tens and ones digits at I, I + 1
and I + 2, and no other byte of memory changes. -/
def Obligations.LdBStoresTheDecimalDigits : Prop :=
  ∀ (x : RegIdx) (s : State), Memory.wf s.cfg s.mem → s.dataAddr 2 ≤ 4095 →
    ∃ t, exec (.ldBVx x) s = .next t ∧
      (t.memByte (s.dataAddr 0)).toNat = (s.readV x).toNat / 100 ∧
      (t.memByte (s.dataAddr 1)).toNat = (s.readV x).toNat / 10 % 10 ∧
      (t.memByte (s.dataAddr 2)).toNat = (s.readV x).toNat % 10 ∧
      memoryKeptOutside (s.dataAddr 0) 3 s t ∧ t.pc = s.pc + 2 ∧
      regsKeptExcept [] s t ∧ keptExcept [.pc, .memory] s t

/-- 42_index_memory.md R128 and R130 (D19): where I + x is a valid address, LD [I],Vx stores V0 to Vx at I to I + x and no
other byte changes; LD Vx,[I] loads V0 to Vx from there and no other register changes; I is unchanged. -/
def Obligations.BlockTransfersMoveV0ToVx : Prop :=
  ∀ (x : RegIdx) (s : State), s.dataAddr x.val ≤ 4095 →
    (Memory.wf s.cfg s.mem → ∃ t, exec (.ldMemVx x) s = .next t ∧
      (∀ j : RegIdx, j ≤ x → t.memByte (s.dataAddr j.val) = s.readV j) ∧
      memoryKeptOutside (s.dataAddr 0) (x.val + 1) s t ∧ t.pc = s.pc + 2 ∧
      regsKeptExcept [] s t ∧ keptExcept [.pc, .memory] s t) ∧
    (∃ t, exec (.ldVxMem x) s = .next t ∧
      (∀ j : RegIdx, t.readV j = if j ≤ x then s.memByte (s.dataAddr j.val) else s.readV j) ∧ t.pc = s.pc + 2 ∧
      keptExcept [.pc] s t)

/-- 20_memory.md R45 (D3, D4): DRW, LD B,Vx, LD [I],Vx and LD Vx,[I] whose bytes, `dataLen` of them at I counted on natural
numbers, run past 4095 halt with DataOutOfBounds and have no other effect. -/
def Obligations.DataOutOfBoundsHaltsWithoutEffect : Prop :=
  ∀ (i : Instr) (s : State), i.dataLen > 0 → s.dataAddr (i.dataLen - 1) > 4095 →
    ∃ t, exec i s = .next t ∧ haltedFrom .dataOutOfBounds (encode i) s t

/-! ## The display -/

/-- 43_display.md R142: all 2048 pixels off and `needs_redraw` set, whatever was there; VF not written, no halt. -/
def Obligations.ClsClearsEveryPixel : Prop :=
  ∀ s : State, ∃ t, exec .cls s = .next t ∧ (∀ r c, Display.pixel t.disp r c = false) ∧ t.needsRedraw = true ∧
    t.pc = s.pc + 2 ∧ regsKeptExcept [] s t ∧ keptExcept [.pc, .disp, .needsRedraw] s t

/-- 43_display.md R140, R143 and R144, with the bit order of R141 (D14, G2): where its n bytes at I are in memory, or n = 0,
DRW flips exactly the pixels its 1 bits fall on, wrapped on each axis, from the coordinates read before VF is written; VF
is 1 if one of them was on, else 0; `needs_redraw` is set. -/
def Obligations.DrwXorsTheSpriteAndReportsCollision : Prop :=
  ∀ (x y : RegIdx) (n : Fin 16) (s : State), n.val = 0 ∨ s.dataAddr 0 + n.val ≤ 4096 →
    ∃ t, exec (.drwVxVyN x y n) s = .next t ∧
      (∀ r c, spriteCovers (s.readV x) (s.readV y) (s.loadBytes (s.dataAddr 0) n.val) r c →
        Display.pixel t.disp r c = !(Display.pixel s.disp r c)) ∧
      (∀ r c, ¬spriteCovers (s.readV x) (s.readV y) (s.loadBytes (s.dataAddr 0) n.val) r c →
        Display.pixel t.disp r c = Display.pixel s.disp r c) ∧
      (t.readV VF = 0 ∨ t.readV VF = 1) ∧
      (t.readV VF = 1 ↔ ∃ r c, spriteCovers (s.readV x) (s.readV y) (s.loadBytes (s.dataAddr 0) n.val) r c ∧
        Display.pixel s.disp r c = true) ∧
      t.needsRedraw = true ∧ t.pc = s.pc + 2 ∧
      regsKeptExcept [VF] s t ∧ keptExcept [.pc, .disp, .needsRedraw] s t

/-- 43_display.md R145 (derived from R141, R143): the same sprite drawn twice at coordinates that are not VF restores the
display; the second draw collides exactly when the first turned a pixel on, from a clear display exactly when the sprite has
a 1 bit; a sprite of zero bytes changes no pixel and does not collide. -/
def Obligations.DrawingTwiceRestoresTheDisplay : Prop :=
  ∀ (x y : RegIdx) (n : Fin 16) (s : State), x ≠ VF → y ≠ VF → n.val = 0 ∨ s.dataAddr 0 + n.val ≤ 4096 →
    ∃ t u, exec (.drwVxVyN x y n) s = .next t ∧ exec (.drwVxVyN x y n) t = .next u ∧ u.disp = s.disp ∧
      (u.readV VF = 1 ↔ ∃ r c, Display.pixel s.disp r c = false ∧ Display.pixel t.disp r c = true) ∧
      ((∀ r c, Display.pixel s.disp r c = false) →
        (u.readV VF = 1 ↔ ∃ j, j < n.val ∧ s.memByte (s.dataAddr j) ≠ 0)) ∧
      ((∀ j, j < n.val → s.memByte (s.dataAddr j) = 0) → t.disp = s.disp ∧ t.readV VF = 0)

/-! ## Timers and keys -/

/-- 44_timers_keys.md R150 and R151: `V[x] <- DT` without changing DT; `DT <- V[x]`; no flag, no halt. -/
def Obligations.DelayTimerTransfers : Prop :=
  ∀ (x : RegIdx) (s : State),
    (∃ t, exec (.ldVxDt x) s = .next t ∧ t.readV x = s.dt ∧ t.pc = s.pc + 2 ∧
      regsKeptExcept [x] s t ∧ keptExcept [.pc] s t) ∧
    (∃ t, exec (.ldDtVx x) s = .next t ∧ t.dt = s.readV x ∧ t.pc = s.pc + 2 ∧
      regsKeptExcept [] s t ∧ keptExcept [.pc, .dt] s t)

/-- 44_timers_keys.md R152, and 10_state.md R28 (D20, G6) for the output: `ST <- V[x]`, and the sound is on exactly when
the value is not 0. -/
def Obligations.SoundTimerWriteDrivesTheSound : Prop :=
  ∀ (x : RegIdx) (s : State), ∃ t, exec (.ldStVx x) s = .next t ∧ t.st = s.readV x ∧
    (t.sound = true ↔ s.readV x ≠ 0) ∧ t.pc = s.pc + 2 ∧ regsKeptExcept [] s t ∧ keptExcept [.pc, .st] s t

/-- 44_timers_keys.md R154 and R155, with the key chosen by R153 (D16): SKP skips when key `Vx mod 16` is down, SKNP when it
is up. -/
def Obligations.KeySkipsTestTheKeyLevel : Prop :=
  ∀ (x : RegIdx) (k : KeyIdx) (s : State), k.val = (s.readV x).toNat % 16 →
    (∃ t, exec (.skpVx x) s = .next t ∧ t.pc = (if s.keys[k.val] = true then s.pc + 4 else s.pc + 2) ∧
      regsKeptExcept [] s t ∧ keptExcept [.pc] s t) ∧
    (∃ t, exec (.sknpVx x) s = .next t ∧ t.pc = (if s.keys[k.val] = true then s.pc + 2 else s.pc + 4) ∧
      regsKeptExcept [] s t ∧ keptExcept [.pc] s t)

/-- 44_timers_keys.md R157 (D17): the entering step of LD Vx,K latches x and the keys and waits, whatever keys are down; PC
and every register stay. -/
def Obligations.KeyWaitBeginsWithoutCompleting : Prop :=
  ∀ (x : RegIdx) (s : State), ∃ t, exec (.ldVxK x) s = .next t ∧ t.waitReg = x ∧ t.keyPrev = s.keys ∧
    t.runState = .awaitingKey ∧ regsKeptExcept [] s t ∧ keptExcept [.waitLatches, .runState] s t

/-- 44_timers_keys.md R158 (D17): a step in AwaitingKey with press edges writes the least such key to V[wait_reg], moves PC
past the instruction and runs on; with none it remembers the keys and waits on. -/
def Obligations.KeyPollTakesTheLeastPressedKey : Prop :=
  (∀ (s : State) (k : KeyIdx), s.runState = .awaitingKey → pressEdge s k → (∀ j, pressEdge s j → k ≤ j) →
    ∃ t, step s = .next t ∧ (t.readV s.waitReg).toNat = k.val ∧ t.pc = s.pc + 2 ∧ t.runState = .running ∧
      regsKeptExcept [s.waitReg] s t ∧ keptExcept [.pc, .runState] s t) ∧
  (∀ s : State, s.runState = .awaitingKey → (∀ k, ¬pressEdge s k) →
    ∃ t, step s = .next t ∧ t.keyPrev = s.keys ∧ t.waitReg = s.waitReg ∧
      regsKeptExcept [] s t ∧ keptExcept [.waitLatches] s t)

/-- 60_exceptions.md R192 (with R158, R180, R200): only a step that sees a press edge, Stop or Reset ends the wait. -/
def Obligations.OnlyEdgeStopOrResetEndsTheWait : Prop :=
  ∀ (e : Event) (s t : State), s.runState = .awaitingKey → applyEvent e s = .next t → t.runState ≠ .awaitingKey →
    (e = .step ∧ ∃ k, pressEdge s k) ∨ e = .stop ∨ ∃ rom, e = .reset rom

/-! ## Events -/

/-- 60_exceptions.md R184 (sound by 10_state.md R28, D20): a tick takes one from each timer that is not 0, in Running and in
AwaitingKey, and turns the sound off as ST goes from 1 to 0; in Halted it does nothing. -/
def Obligations.TickCountsBothTimersDown : Prop :=
  (∀ s : State, s.runState ≠ .halted → ∃ t, applyEvent .tick s = .next t ∧
    t.dt.toNat = s.dt.toNat - 1 ∧ t.st.toNat = s.st.toNat - 1 ∧
    (s.st = 1 → s.sound = true ∧ t.sound = false) ∧ regsKeptExcept [] s t ∧ keptExcept [.dt, .st] s t) ∧
  (∀ s : State, s.runState = .halted → applyEvent .tick s = .next s)

/-- 10_state.md R16, R17 and 60_exceptions.md R184, over any number of ticks: each timer is at its start less the count,
and never below 0. -/
def Obligations.TimersReachZeroAndStay : Prop :=
  ∀ (n : Nat) (s : State), s.runState ≠ .halted → ∃ t, runEvents (List.replicate n .tick) s = .next t ∧
    t.dt.toNat = s.dt.toNat - n ∧ t.st.toNat = s.st.toNat - n ∧ regsKeptExcept [] s t ∧ keptExcept [.dt, .st] s t

/-- 60_exceptions.md R178: KeySet writes one key flag in every run state and touches nothing else. -/
def Obligations.KeySetWritesOneKey : Prop :=
  ∀ (k : KeyIdx) (b : Bool) (s : State), ∃ t, applyEvent (.keySet k b) s = .next t ∧
    (∀ j : KeyIdx, t.keys[j.val] = if j = k then b else s.keys[j.val]) ∧ (s.keys[k.val] = b → t = s) ∧
    regsKeptExcept [] s t ∧ keptExcept [.keys] s t

/-- 60_exceptions.md R179: RedrawAck clears `needs_redraw` in every run state and touches nothing else. -/
def Obligations.RedrawAckClearsTheSignal : Prop :=
  ∀ s : State, ∃ t, applyEvent .redrawAck s = .next t ∧ t.needsRedraw = false ∧
    regsKeptExcept [] s t ∧ keptExcept [.needsRedraw] s t

/-- 60_exceptions.md R180: Stop halts a machine that is not halted with StopRequested, PC and the word 0; a halted one it
leaves alone. -/
def Obligations.StopHaltsOnRequest : Prop :=
  (∀ s : State, s.runState ≠ .halted → ∃ t, applyEvent .stop s = .next t ∧ haltedFrom .stopRequested 0 s t) ∧
  (∀ s : State, s.runState = .halted → applyEvent .stop s = .next s)

/-- 10_state.md R29 and 70_reset_and_hazards.md R200 (D23; the latches and halt registers are the spec's own), for every
configuration and every state before it: what Reset leaves with a ROM that fits. -/
def Obligations.ResetLeavesTheResetValues : Prop :=
  ∀ (s : State) (rom : List Byte), rom.length ≤ 3584 → ∃ t, applyEvent (.reset rom) s = .next t ∧
    (∀ x, t.readV x = 0) ∧ t.i = 0 ∧ t.pc = 0x200 ∧ t.sp = 0 ∧ (∀ j : Fin 16, t.stack[j.val] = 0) ∧
    t.dt = 0 ∧ t.st = 0 ∧ t.sound = false ∧
    (∀ j, (h : j < rom.length) → t.memByte (0x200 + j) = rom[j]) ∧
    (∀ j, (h : j < 80) → t.memByte (s.cfg.fontBase.val + j) = s.cfg.fontData[j]) ∧
    (∀ a, ¬(0x200 ≤ a ∧ a < 0x200 + rom.length) → ¬(s.cfg.fontBase.val ≤ a ∧ a < s.cfg.fontBase.val + 80) →
      t.memByte a = 0) ∧
    (∀ r c, Display.pixel t.disp r c = false) ∧ (∀ k : KeyIdx, t.keys[k.val] = false) ∧ t.needsRedraw = false ∧
    t.runState = .running ∧ t.waitReg = 0 ∧ (∀ k : KeyIdx, t.keyPrev[k.val] = false) ∧
    t.haltCause = .none ∧ t.haltAddr = 0 ∧ t.haltWord = 0 ∧ t.cfg = s.cfg

/-- 70_reset_and_hazards.md R200 and R201, 10_state.md R29: a ROM of at most 3584 bytes is accepted, whatever its bytes, and
stands in memory; one of 3585 bytes or more leaves the machine halted with RomTooLarge, address 0x200 and word 0, no ROM byte
copied, and every other piece of state at its reset value, whatever it was before, and no step executes anything; an empty
ROM is accepted, and the first step fetches 0x0000 and halts with UnknownOpcode. That the check and the load are inside the
one event Reset is D23 and the conflict C11 (log 20), that no step leaves Halted D21 (log 17), the font D15 (log 2), and the
zero of the latches and halt registers the spec's own (log 20). -/
def Obligations.RomSizeIsCheckedAtReset : Prop :=
  (∀ (s : State) (rom : List Byte), rom.length ≤ 3584 → ∃ t, applyEvent (.reset rom) s = .next t ∧
    t.runState = .running ∧ t.haltCause = .none ∧ t.pc = 0x200 ∧
    ∀ j, (h : j < rom.length) → t.memByte (0x200 + j) = rom[j]) ∧
  (∀ (s : State) (rom : List Byte), rom.length > 3584 → ∃ t, applyEvent (.reset rom) s = .next t ∧
    t.runState = .halted ∧ t.haltCause = .romTooLarge ∧ t.haltAddr = 0x200 ∧ t.haltWord = 0 ∧ t.pc = 0x200 ∧
    (∀ x, t.readV x = 0) ∧ t.i = 0 ∧ t.sp = 0 ∧ (∀ j : Fin 16, t.stack[j.val] = 0) ∧
    t.dt = 0 ∧ t.st = 0 ∧ t.sound = false ∧
    (∀ j, (h : j < 80) → t.memByte (s.cfg.fontBase.val + j) = s.cfg.fontData[j]) ∧
    (∀ a, ¬(s.cfg.fontBase.val ≤ a ∧ a < s.cfg.fontBase.val + 80) → t.memByte a = 0) ∧
    (∀ r c, Display.pixel t.disp r c = false) ∧ (∀ k : KeyIdx, t.keys[k.val] = false) ∧ t.needsRedraw = false ∧
    t.waitReg = 0 ∧ (∀ k : KeyIdx, t.keyPrev[k.val] = false) ∧ t.cfg = s.cfg ∧
    (∀ a, 0x200 ≤ a → t.memByte a = 0) ∧ step t = .next t) ∧
  (∀ s : State, ∃ t u, applyEvent (.reset []) s = .next t ∧ t.runState = .running ∧ t.pc = 0x200 ∧
    t.fetchWord? = some 0 ∧ step t = .next u ∧ haltedFrom .unknownOpcode 0 t u)

/-! ## The whole machine -/

/-- 60_exceptions.md R171 and R173 (D4, D22): in Running, a fetched and decoded instruction halts exactly when the table of
causes says so, with that cause, the word it was fetched as and no other change; otherwise the machine goes on. -/
def Obligations.InstructionsHaltExactlyOnTheirConditions : Prop :=
  ∀ (s : State) (w : Word) (i : Instr), s.runState = .running → s.fetchWord? = some w → decodeWord w = .ok i →
    (∀ c, haltCondition c i s → ∃ t, step s = .next t ∧ haltedFrom c w s t) ∧
    ((∀ c, ¬haltCondition c i s) → ∃ t, step s = .next t ∧ t.runState ≠ .halted ∧ t.haltCause = s.haltCause ∧
      t.haltAddr = s.haltAddr ∧ t.haltWord = s.haltWord)

/-- 60_exceptions.md R174 (D21): no event but Reset leaves Halted; Step, Tick and Stop change nothing there, and KeySet and
RedrawAck only the keys and `needs_redraw`. -/
def Obligations.OnlyResetLeavesHalted : Prop :=
  ∀ (e : Event) (s t : State), s.runState = .halted → applyEvent e s = .next t → (∀ rom, e ≠ .reset rom) →
    t.runState = .halted ∧ regsKeptExcept [] s t ∧ keptExcept [.keys, .needsRedraw] s t ∧
    (e = .step ∨ e = .tick ∨ e = .stop → t = s)

/-- 10_state.md R11 and R12: an instruction leaves every register alone but its destination, VF where it writes a flag, and
the run V0 to Vx of LD Vx,[I]; so VF is written by ADD Vx,Vy, SUB, SUBN, SHR, SHL, DRW and where it is the destination, and
by nothing else. -/
def Obligations.InstructionsWriteOnlyTheirRegisters : Prop :=
  ∀ (i : Instr) (s t : State) (j : RegIdx), exec i s = .next t → i.writesReg j = false → t.readV j = s.readV j

/-- 10_state.md R14 to R17 and R20 to R24, 20_memory.md R40: each part of the state is written by the instructions its rule
names and by no other; no instruction writes the keys or the configuration, and the halt registers and `run_state` change
otherwise only by halting. -/
def Obligations.EachPartIsWrittenOnlyByItsInstructions : Prop :=
  ∀ (p : Part) (i : Instr) (s t : State), exec i s = .next t → p.writtenBy i = false →
    (p = .runState ∨ p = .haltRecord → t.runState ≠ .halted) → p.kept s t

/-- 10_state.md R17 and R22: no instruction reads ST or `needs_redraw`: two runs of a step that differ only there differ
after it only there. -/
def Obligations.NoStepReadsTheSoundTimerOrRedrawSignal : Prop :=
  ∀ (s : State) (b : Byte) (r : Bool), ∃ t u, step s = .next t ∧
    step { s with st := b, needsRedraw := r } = .next u ∧ regsKeptExcept [] t u ∧ keptExcept [.st, .needsRedraw] t u

/-! ## The invariant (10_state.md R30) -/

/-- The state after reset meets the invariant. -/
def Obligations.ResetStateMeetsTheInvariant : Prop := State.reset.Inv

/-- Every step keeps the invariant, from every state that meets it. -/
def Obligations.StepKeepsTheInvariant : Prop :=
  ∀ s t : State, s.Inv → step s = .next t → t.Inv

/-- Every sequence of events, in any order, keeps the invariant, so every state a run from a reset reaches meets it. -/
def Obligations.EventSequencesKeepTheInvariant : Prop :=
  ∀ (es : List Event) (s t : State), s.Inv → runEvents es s = .next t → t.Inv
end

