-- ==== Sys2Proof/Laws/PerInstr.lean ====
section
/-! SUPPORT. Per instruction: its word lies in its own row of the opcode map (30_encoding.md R62, R64), so no operand field
reaches into the fixed bits. -/

namespace Sys2Proof.Laws

/-! ## No field reaches into the fixed bits of its formats -/

theorem placeNnn_fixed (nnn : Addr12) : placeNnn nnn &&& 0xF000#16 = 0#16 := by
  revert nnn
  decide

theorem placeKk_fixed (kk : Byte) : placeKk kk &&& 0xF000#16 = 0#16 := by
  revert kk
  decide

theorem placeX_fixed (x : RegIdx) :
    placeX x &&& 0xF000#16 = 0#16 ∧ placeX x &&& 0xF00F#16 = 0#16 ∧ placeX x &&& 0xF0FF#16 = 0#16 := by
  revert x
  decide

theorem placeY_fixed (y : RegIdx) : placeY y &&& 0xF000#16 = 0#16 ∧ placeY y &&& 0xF00F#16 = 0#16 := by
  revert y
  decide

theorem placeN_fixed (n : Fin 16) : placeN n &&& 0xF000#16 = 0#16 := by
  revert n
  decide

/-- The mask of a row whose pattern lies under it picks the pattern out of a word whose operand bits lie outside it. -/
theorem pattern_of_operands {p b m : Word} (hp : p &&& m = p) (hb : b &&& m = 0) : (p ||| b) &&& m = p := by
  rw [BitVec.and_comm, BitVec.and_or_distrib_left, BitVec.and_comm m p, BitVec.and_comm m b, hp, hb]
  simp

theorem or_fixed {a b m : Word} (ha : a &&& m = 0) (hb : b &&& m = 0) : (a ||| b) &&& m = 0 := by
  rw [BitVec.and_comm, BitVec.and_or_distrib_left, BitVec.and_comm m a, BitVec.and_comm m b, ha, hb]
  simp

namespace EncodeInRow

/-- The instruction's word is accepted by its own row. -/
def Statement (i : Instr) : Prop := (rowOf i).accepts (encode i) = true

/-- Every row's pattern lies under its mask. -/
theorem pattern_under_mask (i : Instr) : (rowOf i).pattern &&& (rowOf i).mask = (rowOf i).pattern := by
  cases i <;> simp only [rowOf] <;> decide

/-- The form every proof below has: the operand bits lie outside the mask. -/
theorem of_operands {i : Instr} (hb : operandBits i &&& (rowOf i).mask = 0) : Statement i := by
  simp only [Statement, OpRow.accepts, encode, pattern_of_operands (pattern_under_mask i) hb, beq_self_eq_true]

theorem sys (nnn : Addr12) : Statement (.sys nnn) := of_operands (placeNnn_fixed nnn)

theorem cls : Statement .cls := of_operands (by decide)
theorem ret : Statement .ret := of_operands (by decide)
theorem jp (nnn : Addr12) : Statement (.jp nnn) := of_operands (placeNnn_fixed nnn)
theorem call (nnn : Addr12) : Statement (.call nnn) := of_operands (placeNnn_fixed nnn)
theorem seVxKk (x : RegIdx) (kk : Byte) : Statement (.seVxKk x kk) := of_operands (or_fixed (placeX_fixed x).1 (placeKk_fixed kk))
theorem sneVxKk (x : RegIdx) (kk : Byte) : Statement (.sneVxKk x kk) := of_operands (or_fixed (placeX_fixed x).1 (placeKk_fixed kk))
theorem seVxVy (x y : RegIdx) : Statement (.seVxVy x y) := of_operands (or_fixed (placeX_fixed x).2.1 (placeY_fixed y).2)
theorem ldVxKk (x : RegIdx) (kk : Byte) : Statement (.ldVxKk x kk) := of_operands (or_fixed (placeX_fixed x).1 (placeKk_fixed kk))
theorem addVxKk (x : RegIdx) (kk : Byte) : Statement (.addVxKk x kk) := of_operands (or_fixed (placeX_fixed x).1 (placeKk_fixed kk))
theorem ldVxVy (x y : RegIdx) : Statement (.ldVxVy x y) := of_operands (or_fixed (placeX_fixed x).2.1 (placeY_fixed y).2)
theorem orVxVy (x y : RegIdx) : Statement (.orVxVy x y) := of_operands (or_fixed (placeX_fixed x).2.1 (placeY_fixed y).2)
theorem andVxVy (x y : RegIdx) : Statement (.andVxVy x y) := of_operands (or_fixed (placeX_fixed x).2.1 (placeY_fixed y).2)
theorem xorVxVy (x y : RegIdx) : Statement (.xorVxVy x y) := of_operands (or_fixed (placeX_fixed x).2.1 (placeY_fixed y).2)
theorem addVxVy (x y : RegIdx) : Statement (.addVxVy x y) := of_operands (or_fixed (placeX_fixed x).2.1 (placeY_fixed y).2)
theorem subVxVy (x y : RegIdx) : Statement (.subVxVy x y) := of_operands (or_fixed (placeX_fixed x).2.1 (placeY_fixed y).2)
theorem shrVx (x y : RegIdx) : Statement (.shrVx x y) := of_operands (or_fixed (placeX_fixed x).2.1 (placeY_fixed y).2)
theorem subnVxVy (x y : RegIdx) : Statement (.subnVxVy x y) := of_operands (or_fixed (placeX_fixed x).2.1 (placeY_fixed y).2)
theorem shlVx (x y : RegIdx) : Statement (.shlVx x y) := of_operands (or_fixed (placeX_fixed x).2.1 (placeY_fixed y).2)
theorem sneVxVy (x y : RegIdx) : Statement (.sneVxVy x y) := of_operands (or_fixed (placeX_fixed x).2.1 (placeY_fixed y).2)
theorem ldIAddr (nnn : Addr12) : Statement (.ldIAddr nnn) := of_operands (placeNnn_fixed nnn)
theorem jpV0Addr (nnn : Addr12) : Statement (.jpV0Addr nnn) := of_operands (placeNnn_fixed nnn)
theorem rndVxKk (x : RegIdx) (kk : Byte) : Statement (.rndVxKk x kk) := of_operands (or_fixed (placeX_fixed x).1 (placeKk_fixed kk))
theorem drwVxVyN (x y : RegIdx) (n : Fin 16) : Statement (.drwVxVyN x y n) := of_operands (or_fixed (or_fixed (placeX_fixed x).1 (placeY_fixed y).1) (placeN_fixed n))
theorem skpVx (x : RegIdx) : Statement (.skpVx x) := of_operands (placeX_fixed x).2.2
theorem sknpVx (x : RegIdx) : Statement (.sknpVx x) := of_operands (placeX_fixed x).2.2
theorem ldVxDt (x : RegIdx) : Statement (.ldVxDt x) := of_operands (placeX_fixed x).2.2
theorem ldVxK (x : RegIdx) : Statement (.ldVxK x) := of_operands (placeX_fixed x).2.2
theorem ldDtVx (x : RegIdx) : Statement (.ldDtVx x) := of_operands (placeX_fixed x).2.2
theorem ldStVx (x : RegIdx) : Statement (.ldStVx x) := of_operands (placeX_fixed x).2.2
theorem addIVx (x : RegIdx) : Statement (.addIVx x) := of_operands (placeX_fixed x).2.2
theorem ldFVx (x : RegIdx) : Statement (.ldFVx x) := of_operands (placeX_fixed x).2.2
theorem ldBVx (x : RegIdx) : Statement (.ldBVx x) := of_operands (placeX_fixed x).2.2
theorem ldMemVx (x : RegIdx) : Statement (.ldMemVx x) := of_operands (placeX_fixed x).2.2
theorem ldVxMem (x : RegIdx) : Statement (.ldVxMem x) := of_operands (placeX_fixed x).2.2

end EncodeInRow

end Sys2Proof.Laws
end

