-- ==== Sys2Proof/Laws/Decode.lean ====
section
/-! SUPPORT. The opcode map: a row reads back the fields an instruction puts in (30_encoding.md R61, R62), an accepted word
is its pattern with its fields, and two rows whose fixed bits differ accept no word together (R64). -/

namespace Sys2Proof.Laws

/-! ## Rows that exclude each other -/

/-- Two rows differ in a bit that both fix. -/
def clash (r r' : OpRow) : Bool := r.mask &&& r'.mask &&& (r.pattern ^^^ r'.pattern) != 0

theorem accepts_iff (r : OpRow) (w : Word) : r.accepts w = true ↔ w &&& r.mask = r.pattern := by
  simp [OpRow.accepts]

/-- Where two rows clash, a word the one accepts the other refuses. -/
theorem not_accepts_of_clash {r r' : OpRow} {w : Word} (h : r.accepts w = true) (hc : clash r r' = true) :
    r'.accepts w = false := by
  rw [accepts_iff] at h
  rw [Bool.eq_false_iff, ne_eq, accepts_iff]
  intro h'
  simp only [clash, bne_iff_ne, ne_eq] at hc
  apply hc
  rw [← h, ← h']
  ext b hb
  simp only [BitVec.getElem_and, BitVec.getElem_xor]
  cases w[b] <;> cases r.mask[b] <;> cases r'.mask[b] <;> simp

/-- CLS and RET, the only rows that fix all 16 bits, lie inside SYS's row; no other two rows of the map overlap (R64). -/
def sysOverlap (r r' : OpRow) : Bool := r.mask == 0xFFFF#16 && r'.mask == 0xF000#16 && r'.pattern == 0

theorem opcodeTable_clash : opcodeTable.Pairwise (fun r r' => clash r r' = true ∨ sysOverlap r r' = true) := by decide

theorem rowOf_mem (i : Instr) : rowOf i ∈ opcodeTable := by
  cases i <;> simp [rowOf, opcodeTable]

theorem accepts_encode (i : Instr) : (rowOf i).accepts (encode i) = true :=
  match i with
  | .sys nnn => EncodeInRow.sys nnn
  | .cls => EncodeInRow.cls
  | .ret => EncodeInRow.ret
  | .jp nnn => EncodeInRow.jp nnn
  | .call nnn => EncodeInRow.call nnn
  | .seVxKk x kk => EncodeInRow.seVxKk x kk
  | .sneVxKk x kk => EncodeInRow.sneVxKk x kk
  | .seVxVy x y => EncodeInRow.seVxVy x y
  | .ldVxKk x kk => EncodeInRow.ldVxKk x kk
  | .addVxKk x kk => EncodeInRow.addVxKk x kk
  | .ldVxVy x y => EncodeInRow.ldVxVy x y
  | .orVxVy x y => EncodeInRow.orVxVy x y
  | .andVxVy x y => EncodeInRow.andVxVy x y
  | .xorVxVy x y => EncodeInRow.xorVxVy x y
  | .addVxVy x y => EncodeInRow.addVxVy x y
  | .subVxVy x y => EncodeInRow.subVxVy x y
  | .shrVx x y => EncodeInRow.shrVx x y
  | .subnVxVy x y => EncodeInRow.subnVxVy x y
  | .shlVx x y => EncodeInRow.shlVx x y
  | .sneVxVy x y => EncodeInRow.sneVxVy x y
  | .ldIAddr nnn => EncodeInRow.ldIAddr nnn
  | .jpV0Addr nnn => EncodeInRow.jpV0Addr nnn
  | .rndVxKk x kk => EncodeInRow.rndVxKk x kk
  | .drwVxVyN x y n => EncodeInRow.drwVxVyN x y n
  | .skpVx x => EncodeInRow.skpVx x
  | .sknpVx x => EncodeInRow.sknpVx x
  | .ldVxDt x => EncodeInRow.ldVxDt x
  | .ldVxK x => EncodeInRow.ldVxK x
  | .ldDtVx x => EncodeInRow.ldDtVx x
  | .ldStVx x => EncodeInRow.ldStVx x
  | .addIVx x => EncodeInRow.addIVx x
  | .ldFVx x => EncodeInRow.ldFVx x
  | .ldBVx x => EncodeInRow.ldBVx x
  | .ldMemVx x => EncodeInRow.ldMemVx x
  | .ldVxMem x => EncodeInRow.ldVxMem x

/-- The two bytes of a word in memory order make it again (20_memory.md R42). -/
theorem wordOfBytes_of_slices (w : Word) : wordOfBytes (w.extractLsb' 8 8) (w.extractLsb' 0 8) = w := by
  ext b hb
  simp only [wordOfBytes, BitVec.getElem_or, BitVec.getElem_shiftLeft, BitVec.getElem_setWidth,
    BitVec.getLsbD_extractLsb']
  interval_cases b <;> simp

theorem wordOfBytes_toNat (hi lo : Byte) : (wordOfBytes hi lo).toNat = hi.toNat * 256 + lo.toNat := by
  simp only [wordOfBytes, BitVec.toNat_or, BitVec.toNat_shiftLeft, BitVec.toNat_setWidth]
  have h1 := hi.isLt
  have h2 := lo.isLt
  rw [Nat.mod_eq_of_lt (by omega : hi.toNat < 2 ^ 16), Nat.mod_eq_of_lt (by omega : lo.toNat < 2 ^ 16),
    Nat.shiftLeft_eq, Nat.mod_eq_of_lt (by omega), ← Nat.shiftLeft_eq, ← Nat.shiftLeft_add_eq_or_of_lt h2,
    Nat.shiftLeft_eq]

/-! ## Fields read back -/

theorem slices_placeX (x : RegIdx) : (placeX x).extractLsb' 8 4 = nibbleBits x ∧
    (placeX x).extractLsb' 4 4 = 0 ∧ (placeX x).extractLsb' 0 4 = 0 ∧ (placeX x).extractLsb' 0 8 = 0 := by
  revert x
  decide

theorem slices_placeY (y : RegIdx) : (placeY y).extractLsb' 8 4 = 0 ∧
    (placeY y).extractLsb' 4 4 = nibbleBits y ∧ (placeY y).extractLsb' 0 4 = 0 := by
  revert y
  decide

theorem slices_placeN (n : Fin 16) : (placeN n).extractLsb' 8 4 = 0 ∧ (placeN n).extractLsb' 4 4 = 0 ∧
    (placeN n).extractLsb' 0 4 = nibbleBits n := by
  revert n
  decide

theorem slices_placeKk (kk : Byte) : (placeKk kk).extractLsb' 8 4 = 0 ∧ (placeKk kk).extractLsb' 0 8 = kk := by
  revert kk
  decide

theorem slice_placeNnn (nnn : Addr12) : (placeNnn nnn).extractLsb' 0 12 = nnn := by
  ext b hb
  simp only [placeNnn, BitVec.getElem_extractLsb', BitVec.getLsbD_setWidth, BitVec.getLsbD_eq_getElem hb, Nat.zero_add]
  simp [show b < 16 by omega]

@[simp] theorem nibbleValue_nibbleBits (x : Fin 16) : nibbleValue (nibbleBits x) = x := by
  revert x
  decide

@[simp] theorem nibbleBits_nibbleValue (b : BitVec 4) : nibbleBits (nibbleValue b) = b := by
  revert b
  decide

/-- A word's own row reads back the instruction it was made from. -/
theorem build_encode (i : Instr) : (rowOf i).build (encode i) = i := by
  cases i <;>
    simp only [rowOf, encode, operandBits, rowSys, rowCls, rowRet, rowJp, rowCall, rowSeVxKk, rowSneVxKk, rowSeVxVy, rowLdVxKk,
      rowAddVxKk, rowLdVxVy, rowOrVxVy, rowAndVxVy, rowXorVxVy, rowAddVxVy, rowSubVxVy, rowShrVx, rowSubnVxVy, rowShlVx,
      rowSneVxVy, rowLdIAddr, rowJpV0Addr, rowRndVxKk, rowDrwVxVyN, rowSkpVx, rowSknpVx, rowLdVxDt, rowLdVxK, rowLdDtVx,
      rowLdStVx, rowAddIVx, rowLdFVx, rowLdBVx, rowLdMemVx, rowLdVxMem, fieldNnn, fieldX, fieldY, fieldN, fieldKk,
      BitVec.extractLsb'_or, slices_placeX, slices_placeY, slices_placeN, slices_placeKk, slice_placeNnn] <;>
    simp

/-! ## An accepted word is its pattern with its fields -/

theorem placeX_fieldX (w : Word) : placeX (fieldX w) = w &&& 0x0F00#16 := by
  ext b hb
  simp only [placeX, fieldX, nibbleBits_nibbleValue, BitVec.getElem_shiftLeft, BitVec.getElem_setWidth,
    BitVec.getLsbD_extractLsb', BitVec.getElem_and]
  interval_cases b <;> simp

theorem placeY_fieldY (w : Word) : placeY (fieldY w) = w &&& 0x00F0#16 := by
  ext b hb
  simp only [placeY, fieldY, nibbleBits_nibbleValue, BitVec.getElem_shiftLeft, BitVec.getElem_setWidth,
    BitVec.getLsbD_extractLsb', BitVec.getElem_and]
  interval_cases b <;> simp

theorem placeN_fieldN (w : Word) : placeN (fieldN w) = w &&& 0x000F#16 := by
  ext b hb
  simp only [placeN, fieldN, nibbleBits_nibbleValue, BitVec.getElem_setWidth, BitVec.getLsbD_extractLsb',
    BitVec.getElem_and]
  interval_cases b <;> simp

theorem placeKk_fieldKk (w : Word) : placeKk (fieldKk w) = w &&& 0x00FF#16 := by
  ext b hb
  simp only [placeKk, fieldKk, BitVec.getElem_setWidth, BitVec.getLsbD_extractLsb', BitVec.getElem_and]
  interval_cases b <;> simp

theorem placeNnn_fieldNnn (w : Word) : placeNnn (fieldNnn w) = w &&& 0x0FFF#16 := by
  ext b hb
  simp only [placeNnn, fieldNnn, BitVec.getElem_setWidth, BitVec.getLsbD_extractLsb', BitVec.getElem_and]
  interval_cases b <;> simp

/-- The fixed and the free bits of a word make it up. -/
theorem or_of_masks {w a b : Word} (h : a ||| b = BitVec.allOnes 16) : (w &&& a) ||| (w &&& b) = w := by
  rw [← BitVec.and_or_distrib_left, h, BitVec.and_allOnes]

/-- The rows of the map each read a word into an instruction of their own, whose word is the row's pattern with the bits
outside the row's mask. -/
theorem encode_build {r : OpRow} (hr : r ∈ opcodeTable) (w : Word) :
    (rowOf (r.build w)).pattern = r.pattern ∧ operandBits (r.build w) = w &&& ~~~r.mask := by
  simp only [opcodeTable, List.cons_append, List.nil_append, List.mem_cons, List.not_mem_nil, or_false] at hr
  rcases hr with rfl | rfl | rfl | rfl | rfl | rfl | rfl | rfl | rfl | rfl | rfl | rfl | rfl | rfl | rfl | rfl | rfl |
    rfl | rfl | rfl | rfl | rfl | rfl | rfl | rfl | rfl | rfl | rfl | rfl | rfl | rfl | rfl | rfl | rfl | rfl <;>
    refine ⟨rfl, ?_⟩ <;>
    simp only [rowSys, rowCls, rowRet, rowJp, rowCall, rowSeVxKk, rowSneVxKk, rowSeVxVy, rowLdVxKk,
      rowAddVxKk, rowLdVxVy, rowOrVxVy, rowAndVxVy, rowXorVxVy, rowAddVxVy, rowSubVxVy, rowShrVx, rowSubnVxVy, rowShlVx,
      rowSneVxVy, rowLdIAddr, rowJpV0Addr, rowRndVxKk, rowDrwVxVyN, rowSkpVx, rowSknpVx, rowLdVxDt, rowLdVxK, rowLdDtVx,
      rowLdStVx, rowAddIVx, rowLdFVx, rowLdBVx, rowLdMemVx, rowLdVxMem, operandBits, placeX_fieldX, placeY_fieldY,
      placeN_fieldN, placeKk_fieldKk, placeNnn_fieldNnn, ← BitVec.and_or_distrib_left] <;>
    first | rfl | simp

/-- So a word a row of the map accepts is the word of the instruction the row reads it into. -/
theorem encode_build_of_accepts {r : OpRow} (hr : r ∈ opcodeTable) {w : Word} (h : r.accepts w = true) :
    encode (r.build w) = w := by
  obtain ⟨hp, hb⟩ := encode_build hr w
  rw [accepts_iff] at h
  rw [encode, hp, hb, ← h]
  exact or_of_masks (by simp)

end Sys2Proof.Laws
end

