-- ==== Sys2Proof/Laws/Memory.lean ====
section
/-! SUPPORT. Memory: every operation keeps the canonical form; a read after a write; two canonical memories that read the
same everywhere are the same list. -/

namespace Sys2Proof.Machine

/-! ## The canonical form is kept -/

theorem Memory.wf_nil (c : Config) : Memory.wf c [] := ⟨List.Pairwise.nil, by simp⟩

theorem Memory.wf_tail {c : Config} {p : Host.Cell} {m : Memory} (h : Memory.wf c (p :: m)) : Memory.wf c m :=
  ⟨(List.pairwise_cons.mp h.1).2, fun q hq => h.2 q (List.mem_cons_of_mem _ hq)⟩

theorem Memory.wf_cons {c : Config} {p : Host.Cell} {m : Memory} (hlt : ∀ q ∈ m, p.1 < q.1)
    (hp : p.1 < memSize ∧ p.2 ≠ Memory.unlisted c p.1) (h : Memory.wf c m) : Memory.wf c (p :: m) :=
  ⟨List.pairwise_cons.mpr ⟨hlt, h.1⟩, by
    intro q hq
    rcases List.mem_cons.mp hq with rfl | hq
    · exact hp
    · exact h.2 q hq⟩

/-- What `put` lists: the byte put, and what was listed before. -/
theorem Memory.mem_put {c : Config} {m : Memory} {a : Nat} {b : Byte} {q : Host.Cell} (h : q ∈ Memory.put c m a b) :
    q = (a, b) ∨ q ∈ m := by
  induction m with
  | nil =>
    simp only [Memory.put] at h
    split at h <;> simp_all
  | cons p rest ih =>
    obtain ⟨k, w⟩ := p
    simp only [Memory.put] at h
    split at h
    · split at h <;> simp_all
    · split at h
      · split at h
        · exact .inr (List.mem_cons_of_mem _ h)
        · rcases List.mem_cons.mp h with h | h
          · exact .inl h
          · exact .inr (List.mem_cons_of_mem _ h)
      · rcases List.mem_cons.mp h with h | h
        · exact .inr (h ▸ List.mem_cons_self)
        · exact (ih h).imp_right (List.mem_cons_of_mem _)

theorem Memory.wf_put {c : Config} {m : Memory} (h : Memory.wf c m) {a : Nat} (ha : a < memSize) (b : Byte) :
    Memory.wf c (Memory.put c m a b) := by
  induction m with
  | nil =>
    simp only [Memory.put]
    split
    · exact Memory.wf_nil c
    · exact Memory.wf_cons (by simp) ⟨ha, ‹_›⟩ (Memory.wf_nil c)
  | cons p rest ih =>
    obtain ⟨k, w⟩ := p
    have hlt := (List.pairwise_cons.mp h.1).1
    simp only [Memory.put]
    split
    · split
      · exact h
      · refine Memory.wf_cons (fun q hq => ?_) ⟨ha, ‹_›⟩ h
        rcases List.mem_cons.mp hq with rfl | hq
        · assumption
        · exact Nat.lt_trans ‹a < k› (hlt q hq)
    · split
      · split
        · exact Memory.wf_tail h
        · exact Memory.wf_cons (fun q hq => by simpa [‹a = k›] using hlt q hq) ⟨ha, ‹_›⟩ (Memory.wf_tail h)
      · refine Memory.wf_cons (fun q hq => ?_) (h.2 _ List.mem_cons_self) (ih (Memory.wf_tail h))
        rcases Memory.mem_put hq with rfl | hq
        · show k < a
          omega
        · exact hlt q hq

theorem Memory.wf_write {c : Config} {m : Memory} (h : Memory.wf c m) (a : Nat) (b : Byte) :
    Memory.wf c (Memory.write c m a b) := by
  unfold Memory.write
  split
  · exact Memory.wf_put h ‹_› b
  · exact h

theorem Memory.wf_writeBytes {c : Config} {m : Memory} (h : Memory.wf c m) (a : Nat) (bs : List Byte) :
    Memory.wf c (Memory.writeBytes c m a bs) := by
  induction bs generalizing m a with
  | nil => exact h
  | cons b rest ih => exact ih (Memory.wf_write h a b) (a + 1)

/-! ## Read after write -/

/-- An address below every listed one reads as unlisted. -/
theorem Memory.read_of_lt {c : Config} {m : Memory} {a : Nat} (h : ∀ q ∈ m, a < q.1) :
    Memory.read c m a = Memory.unlisted c a := by
  induction m with
  | nil => rfl
  | cons p rest ih =>
    have hp : a < p.1 := h p List.mem_cons_self
    simp only [Memory.read]
    rw [if_neg (by omega), ih (fun q hq => h q (List.mem_cons_of_mem _ hq))]

theorem Memory.read_put {c : Config} {m : Memory} (h : Memory.wf c m) (a : Nat) (b : Byte) (j : Nat) :
    Memory.read c (Memory.put c m a b) j = if j = a then b else Memory.read c m j := by
  induction m with
  | nil =>
    by_cases hj : j = a
    · subst hj
      simp only [Memory.put]
      split <;> simp_all [Memory.read]
    · simp only [Memory.put]
      split <;> simp [Memory.read, Ne.symm hj]
  | cons p rest ih =>
    obtain ⟨k, w⟩ := p
    have hlt : ∀ q ∈ rest, k < q.1 := (List.pairwise_cons.mp h.1).1
    simp only [Memory.put]
    split
    · have hbelow : Memory.read c ((k, w) :: rest) a = Memory.unlisted c a := by
        apply Memory.read_of_lt
        intro q hq
        rcases List.mem_cons.mp hq with rfl | hq
        · assumption
        · exact Nat.lt_trans ‹a < k› (hlt q hq)
      split
      · split
        · simp_all
        · rfl
      · rw [Memory.read]
        by_cases hj : j = a
        · simp [hj]
        · simp [hj, Ne.symm hj]
    · split
      · subst a
        have hrest := Memory.read_of_lt (c := c) hlt
        split
        · by_cases hj : j = k
          · simp_all
          · simp [Memory.read, hj, Ne.symm hj]
        · by_cases hj : j = k
          · simp [Memory.read, hj]
          · simp [Memory.read, hj, Ne.symm hj]
      · simp only [Memory.read, ih (Memory.wf_tail h)]
        by_cases hk : k = j
        · subst hk
          simp [show ¬k = a by omega]
        · simp [hk]

theorem Memory.read_write {c : Config} {m : Memory} (h : Memory.wf c m) (a : Nat) (b : Byte) (j : Nat) :
    Memory.read c (Memory.write c m a b) j = if j = a ∧ a < memSize then b else Memory.read c m j := by
  unfold Memory.write
  split
  · simp [Memory.read_put h, *]
  · simp [*]

/-- A byte after a run of bytes was stored: the stored one inside the run, the old one outside. -/
theorem Memory.read_writeBytes {c : Config} {m : Memory} (h : Memory.wf c m) (a : Nat) (bs : List Byte)
    (hfit : a + bs.length ≤ memSize) (j : Nat) :
    Memory.read c (Memory.writeBytes c m a bs) j =
      if hj : a ≤ j ∧ j < a + bs.length then bs[j - a]'(by omega) else Memory.read c m j := by
  induction bs generalizing m a with
  | nil =>
    simp only [Memory.writeBytes, List.length_nil]
    rw [dif_neg (by omega)]
  | cons b rest ih =>
    simp only [List.length_cons] at hfit
    simp only [Memory.writeBytes]
    rw [ih (Memory.wf_write h a b) (a + 1) (by omega), Memory.read_write h]
    by_cases h1 : a + 1 ≤ j ∧ j < a + 1 + rest.length
    · rw [dif_pos h1, dif_pos (by simp only [List.length_cons]; omega)]
      have hs : j - a = j - (a + 1) + 1 := by omega
      simp only [hs, List.getElem_cons_succ]
    · rw [dif_neg h1]
      by_cases h2 : j = a
      · subst h2
        rw [if_pos ⟨rfl, by omega⟩, dif_pos (by simp only [List.length_cons]; omega)]
        simp
      · rw [if_neg (by tauto), dif_neg (by simp only [List.length_cons]; omega)]

/-! ## Canonical memories are determined by their reads -/

theorem Memory.head_ne {c : Config} {p : Host.Cell} {m : Memory} (h : Memory.wf c (p :: m)) :
    Memory.read c (p :: m) p.1 ≠ Memory.unlisted c p.1 := by
  obtain ⟨k, w⟩ := p
  simpa [Memory.read] using (h.2 _ List.mem_cons_self).2

theorem Memory.read_tail {c : Config} {p : Host.Cell} {m : Memory} (h : Memory.wf c (p :: m)) (a : Nat) :
    Memory.read c m a = if a = p.1 then Memory.unlisted c a else Memory.read c (p :: m) a := by
  obtain ⟨k, w⟩ := p
  have hlt : ∀ q ∈ m, k < q.1 := (List.pairwise_cons.mp h.1).1
  by_cases ha : a = k
  · subst ha
    simp [Memory.read_of_lt (c := c) hlt]
  · simp [Memory.read, ha, Ne.symm ha]

theorem Memory.ext_read {c : Config} {m m' : Memory} (h : Memory.wf c m) (h' : Memory.wf c m')
    (heq : ∀ a, Memory.read c m a = Memory.read c m' a) : m = m' := by
  induction m generalizing m' with
  | nil =>
    cases m' with
    | nil => rfl
    | cons p rest => exact absurd (heq p.1).symm (Memory.head_ne h')
  | cons p rest ih =>
    cases m' with
    | nil => exact absurd (heq p.1) (Memory.head_ne h)
    | cons q rest' =>
      have hp := (List.pairwise_cons.mp h.1).1
      have hq := (List.pairwise_cons.mp h'.1).1
      have hk : p.1 = q.1 := by
        rcases Nat.lt_trichotomy p.1 q.1 with hlt | he | hlt
        · refine absurd (heq p.1) ?_
          rw [Memory.read_of_lt (m := q :: rest') (fun z hz => by
            rcases List.mem_cons.mp hz with rfl | hz
            · exact hlt
            · exact Nat.lt_trans hlt (hq z hz))]
          exact Memory.head_ne h
        · exact he
        · refine absurd (heq q.1).symm ?_
          rw [Memory.read_of_lt (m := p :: rest) (fun z hz => by
            rcases List.mem_cons.mp hz with rfl | hz
            · exact hlt
            · exact Nat.lt_trans hlt (hp z hz))]
          exact Memory.head_ne h'
      have hb : p.2 = q.2 := by
        have := heq p.1
        obtain ⟨k, w⟩ := p
        obtain ⟨k', w'⟩ := q
        simp only at hk
        subst hk
        simpa [Memory.read] using this
      have hrest : rest = rest' := by
        refine ih (Memory.wf_tail h) (Memory.wf_tail h') (fun a => ?_)
        rw [Memory.read_tail h, Memory.read_tail h', heq a, hk]
      rw [hrest, Prod.ext hk hb]

end Sys2Proof.Machine
end

