-- ==== Sys2Proof/Laws/State.lean ====
section
/-! SUPPORT. For each named update of State, what each field holds after it; all true by rfl, so that no proof unfolds a
record update. Then the same for the two reads, V[x] and mem[a]. -/

namespace Sys2Proof.Machine

/-! ## writeV -/

@[simp] theorem State.writeV_v (s : State) (x : RegIdx) (b : Byte) : (s.writeV x b).v = s.v.set x.val b := rfl
@[simp] theorem State.writeV_i (s : State) (x : RegIdx) (b : Byte) : (s.writeV x b).i = s.i := rfl
@[simp] theorem State.writeV_pc (s : State) (x : RegIdx) (b : Byte) : (s.writeV x b).pc = s.pc := rfl
@[simp] theorem State.writeV_sp (s : State) (x : RegIdx) (b : Byte) : (s.writeV x b).sp = s.sp := rfl
@[simp] theorem State.writeV_stack (s : State) (x : RegIdx) (b : Byte) : (s.writeV x b).stack = s.stack := rfl
@[simp] theorem State.writeV_dt (s : State) (x : RegIdx) (b : Byte) : (s.writeV x b).dt = s.dt := rfl
@[simp] theorem State.writeV_st (s : State) (x : RegIdx) (b : Byte) : (s.writeV x b).st = s.st := rfl
@[simp] theorem State.writeV_mem (s : State) (x : RegIdx) (b : Byte) : (s.writeV x b).mem = s.mem := rfl
@[simp] theorem State.writeV_disp (s : State) (x : RegIdx) (b : Byte) : (s.writeV x b).disp = s.disp := rfl
@[simp] theorem State.writeV_keys (s : State) (x : RegIdx) (b : Byte) : (s.writeV x b).keys = s.keys := rfl
@[simp] theorem State.writeV_needsRedraw (s : State) (x : RegIdx) (b : Byte) : (s.writeV x b).needsRedraw = s.needsRedraw := rfl
@[simp] theorem State.writeV_runState (s : State) (x : RegIdx) (b : Byte) : (s.writeV x b).runState = s.runState := rfl
@[simp] theorem State.writeV_waitReg (s : State) (x : RegIdx) (b : Byte) : (s.writeV x b).waitReg = s.waitReg := rfl
@[simp] theorem State.writeV_keyPrev (s : State) (x : RegIdx) (b : Byte) : (s.writeV x b).keyPrev = s.keyPrev := rfl
@[simp] theorem State.writeV_haltCause (s : State) (x : RegIdx) (b : Byte) : (s.writeV x b).haltCause = s.haltCause := rfl
@[simp] theorem State.writeV_haltAddr (s : State) (x : RegIdx) (b : Byte) : (s.writeV x b).haltAddr = s.haltAddr := rfl
@[simp] theorem State.writeV_haltWord (s : State) (x : RegIdx) (b : Byte) : (s.writeV x b).haltWord = s.haltWord := rfl
@[simp] theorem State.writeV_cfg (s : State) (x : RegIdx) (b : Byte) : (s.writeV x b).cfg = s.cfg := rfl
@[simp] theorem State.writeV_rndCount (s : State) (x : RegIdx) (b : Byte) : (s.writeV x b).rndCount = s.rndCount := rfl
@[simp] theorem State.writeV_memByte (s : State) (x : RegIdx) (b : Byte) (a : Nat) : (s.writeV x b).memByte a = s.memByte a := rfl
@[simp] theorem State.writeV_fetchWord? (s : State) (x : RegIdx) (b : Byte) : (s.writeV x b).fetchWord? = s.fetchWord? := rfl

/-! ## setI -/

@[simp] theorem State.setI_v (s : State) (w : Word) : (s.setI w).v = s.v := rfl
@[simp] theorem State.setI_i (s : State) (w : Word) : (s.setI w).i = w := rfl
@[simp] theorem State.setI_pc (s : State) (w : Word) : (s.setI w).pc = s.pc := rfl
@[simp] theorem State.setI_sp (s : State) (w : Word) : (s.setI w).sp = s.sp := rfl
@[simp] theorem State.setI_stack (s : State) (w : Word) : (s.setI w).stack = s.stack := rfl
@[simp] theorem State.setI_dt (s : State) (w : Word) : (s.setI w).dt = s.dt := rfl
@[simp] theorem State.setI_st (s : State) (w : Word) : (s.setI w).st = s.st := rfl
@[simp] theorem State.setI_mem (s : State) (w : Word) : (s.setI w).mem = s.mem := rfl
@[simp] theorem State.setI_disp (s : State) (w : Word) : (s.setI w).disp = s.disp := rfl
@[simp] theorem State.setI_keys (s : State) (w : Word) : (s.setI w).keys = s.keys := rfl
@[simp] theorem State.setI_needsRedraw (s : State) (w : Word) : (s.setI w).needsRedraw = s.needsRedraw := rfl
@[simp] theorem State.setI_runState (s : State) (w : Word) : (s.setI w).runState = s.runState := rfl
@[simp] theorem State.setI_waitReg (s : State) (w : Word) : (s.setI w).waitReg = s.waitReg := rfl
@[simp] theorem State.setI_keyPrev (s : State) (w : Word) : (s.setI w).keyPrev = s.keyPrev := rfl
@[simp] theorem State.setI_haltCause (s : State) (w : Word) : (s.setI w).haltCause = s.haltCause := rfl
@[simp] theorem State.setI_haltAddr (s : State) (w : Word) : (s.setI w).haltAddr = s.haltAddr := rfl
@[simp] theorem State.setI_haltWord (s : State) (w : Word) : (s.setI w).haltWord = s.haltWord := rfl
@[simp] theorem State.setI_cfg (s : State) (w : Word) : (s.setI w).cfg = s.cfg := rfl
@[simp] theorem State.setI_rndCount (s : State) (w : Word) : (s.setI w).rndCount = s.rndCount := rfl
@[simp] theorem State.setI_readV (s : State) (w : Word) (j : RegIdx) : (s.setI w).readV j = s.readV j := rfl
@[simp] theorem State.setI_memByte (s : State) (w : Word) (a : Nat) : (s.setI w).memByte a = s.memByte a := rfl
@[simp] theorem State.setI_fetchWord? (s : State) (w : Word) : (s.setI w).fetchWord? = s.fetchWord? := rfl

/-! ## setDt -/

@[simp] theorem State.setDt_v (s : State) (b : Byte) : (s.setDt b).v = s.v := rfl
@[simp] theorem State.setDt_i (s : State) (b : Byte) : (s.setDt b).i = s.i := rfl
@[simp] theorem State.setDt_pc (s : State) (b : Byte) : (s.setDt b).pc = s.pc := rfl
@[simp] theorem State.setDt_sp (s : State) (b : Byte) : (s.setDt b).sp = s.sp := rfl
@[simp] theorem State.setDt_stack (s : State) (b : Byte) : (s.setDt b).stack = s.stack := rfl
@[simp] theorem State.setDt_dt (s : State) (b : Byte) : (s.setDt b).dt = b := rfl
@[simp] theorem State.setDt_st (s : State) (b : Byte) : (s.setDt b).st = s.st := rfl
@[simp] theorem State.setDt_mem (s : State) (b : Byte) : (s.setDt b).mem = s.mem := rfl
@[simp] theorem State.setDt_disp (s : State) (b : Byte) : (s.setDt b).disp = s.disp := rfl
@[simp] theorem State.setDt_keys (s : State) (b : Byte) : (s.setDt b).keys = s.keys := rfl
@[simp] theorem State.setDt_needsRedraw (s : State) (b : Byte) : (s.setDt b).needsRedraw = s.needsRedraw := rfl
@[simp] theorem State.setDt_runState (s : State) (b : Byte) : (s.setDt b).runState = s.runState := rfl
@[simp] theorem State.setDt_waitReg (s : State) (b : Byte) : (s.setDt b).waitReg = s.waitReg := rfl
@[simp] theorem State.setDt_keyPrev (s : State) (b : Byte) : (s.setDt b).keyPrev = s.keyPrev := rfl
@[simp] theorem State.setDt_haltCause (s : State) (b : Byte) : (s.setDt b).haltCause = s.haltCause := rfl
@[simp] theorem State.setDt_haltAddr (s : State) (b : Byte) : (s.setDt b).haltAddr = s.haltAddr := rfl
@[simp] theorem State.setDt_haltWord (s : State) (b : Byte) : (s.setDt b).haltWord = s.haltWord := rfl
@[simp] theorem State.setDt_cfg (s : State) (b : Byte) : (s.setDt b).cfg = s.cfg := rfl
@[simp] theorem State.setDt_rndCount (s : State) (b : Byte) : (s.setDt b).rndCount = s.rndCount := rfl
@[simp] theorem State.setDt_readV (s : State) (b : Byte) (j : RegIdx) : (s.setDt b).readV j = s.readV j := rfl
@[simp] theorem State.setDt_memByte (s : State) (b : Byte) (a : Nat) : (s.setDt b).memByte a = s.memByte a := rfl
@[simp] theorem State.setDt_fetchWord? (s : State) (b : Byte) : (s.setDt b).fetchWord? = s.fetchWord? := rfl

/-! ## setSt -/

@[simp] theorem State.setSt_v (s : State) (b : Byte) : (s.setSt b).v = s.v := rfl
@[simp] theorem State.setSt_i (s : State) (b : Byte) : (s.setSt b).i = s.i := rfl
@[simp] theorem State.setSt_pc (s : State) (b : Byte) : (s.setSt b).pc = s.pc := rfl
@[simp] theorem State.setSt_sp (s : State) (b : Byte) : (s.setSt b).sp = s.sp := rfl
@[simp] theorem State.setSt_stack (s : State) (b : Byte) : (s.setSt b).stack = s.stack := rfl
@[simp] theorem State.setSt_dt (s : State) (b : Byte) : (s.setSt b).dt = s.dt := rfl
@[simp] theorem State.setSt_st (s : State) (b : Byte) : (s.setSt b).st = b := rfl
@[simp] theorem State.setSt_mem (s : State) (b : Byte) : (s.setSt b).mem = s.mem := rfl
@[simp] theorem State.setSt_disp (s : State) (b : Byte) : (s.setSt b).disp = s.disp := rfl
@[simp] theorem State.setSt_keys (s : State) (b : Byte) : (s.setSt b).keys = s.keys := rfl
@[simp] theorem State.setSt_needsRedraw (s : State) (b : Byte) : (s.setSt b).needsRedraw = s.needsRedraw := rfl
@[simp] theorem State.setSt_runState (s : State) (b : Byte) : (s.setSt b).runState = s.runState := rfl
@[simp] theorem State.setSt_waitReg (s : State) (b : Byte) : (s.setSt b).waitReg = s.waitReg := rfl
@[simp] theorem State.setSt_keyPrev (s : State) (b : Byte) : (s.setSt b).keyPrev = s.keyPrev := rfl
@[simp] theorem State.setSt_haltCause (s : State) (b : Byte) : (s.setSt b).haltCause = s.haltCause := rfl
@[simp] theorem State.setSt_haltAddr (s : State) (b : Byte) : (s.setSt b).haltAddr = s.haltAddr := rfl
@[simp] theorem State.setSt_haltWord (s : State) (b : Byte) : (s.setSt b).haltWord = s.haltWord := rfl
@[simp] theorem State.setSt_cfg (s : State) (b : Byte) : (s.setSt b).cfg = s.cfg := rfl
@[simp] theorem State.setSt_rndCount (s : State) (b : Byte) : (s.setSt b).rndCount = s.rndCount := rfl
@[simp] theorem State.setSt_readV (s : State) (b : Byte) (j : RegIdx) : (s.setSt b).readV j = s.readV j := rfl
@[simp] theorem State.setSt_memByte (s : State) (b : Byte) (a : Nat) : (s.setSt b).memByte a = s.memByte a := rfl
@[simp] theorem State.setSt_fetchWord? (s : State) (b : Byte) : (s.setSt b).fetchWord? = s.fetchWord? := rfl

/-! ## redraw -/

@[simp] theorem State.redraw_v (s : State) (d : Display) : (s.redraw d).v = s.v := rfl
@[simp] theorem State.redraw_i (s : State) (d : Display) : (s.redraw d).i = s.i := rfl
@[simp] theorem State.redraw_pc (s : State) (d : Display) : (s.redraw d).pc = s.pc := rfl
@[simp] theorem State.redraw_sp (s : State) (d : Display) : (s.redraw d).sp = s.sp := rfl
@[simp] theorem State.redraw_stack (s : State) (d : Display) : (s.redraw d).stack = s.stack := rfl
@[simp] theorem State.redraw_dt (s : State) (d : Display) : (s.redraw d).dt = s.dt := rfl
@[simp] theorem State.redraw_st (s : State) (d : Display) : (s.redraw d).st = s.st := rfl
@[simp] theorem State.redraw_mem (s : State) (d : Display) : (s.redraw d).mem = s.mem := rfl
@[simp] theorem State.redraw_disp (s : State) (d : Display) : (s.redraw d).disp = d := rfl
@[simp] theorem State.redraw_keys (s : State) (d : Display) : (s.redraw d).keys = s.keys := rfl
@[simp] theorem State.redraw_needsRedraw (s : State) (d : Display) : (s.redraw d).needsRedraw = true := rfl
@[simp] theorem State.redraw_runState (s : State) (d : Display) : (s.redraw d).runState = s.runState := rfl
@[simp] theorem State.redraw_waitReg (s : State) (d : Display) : (s.redraw d).waitReg = s.waitReg := rfl
@[simp] theorem State.redraw_keyPrev (s : State) (d : Display) : (s.redraw d).keyPrev = s.keyPrev := rfl
@[simp] theorem State.redraw_haltCause (s : State) (d : Display) : (s.redraw d).haltCause = s.haltCause := rfl
@[simp] theorem State.redraw_haltAddr (s : State) (d : Display) : (s.redraw d).haltAddr = s.haltAddr := rfl
@[simp] theorem State.redraw_haltWord (s : State) (d : Display) : (s.redraw d).haltWord = s.haltWord := rfl
@[simp] theorem State.redraw_cfg (s : State) (d : Display) : (s.redraw d).cfg = s.cfg := rfl
@[simp] theorem State.redraw_rndCount (s : State) (d : Display) : (s.redraw d).rndCount = s.rndCount := rfl
@[simp] theorem State.redraw_readV (s : State) (d : Display) (j : RegIdx) : (s.redraw d).readV j = s.readV j := rfl
@[simp] theorem State.redraw_memByte (s : State) (d : Display) (a : Nat) : (s.redraw d).memByte a = s.memByte a := rfl
@[simp] theorem State.redraw_fetchWord? (s : State) (d : Display) : (s.redraw d).fetchWord? = s.fetchWord? := rfl

/-! ## advance -/

@[simp] theorem State.advance_v (s : State) : s.advance.v = s.v := rfl
@[simp] theorem State.advance_i (s : State) : s.advance.i = s.i := rfl
@[simp] theorem State.advance_pc (s : State) : s.advance.pc = s.pc + 2 := rfl
@[simp] theorem State.advance_sp (s : State) : s.advance.sp = s.sp := rfl
@[simp] theorem State.advance_stack (s : State) : s.advance.stack = s.stack := rfl
@[simp] theorem State.advance_dt (s : State) : s.advance.dt = s.dt := rfl
@[simp] theorem State.advance_st (s : State) : s.advance.st = s.st := rfl
@[simp] theorem State.advance_mem (s : State) : s.advance.mem = s.mem := rfl
@[simp] theorem State.advance_disp (s : State) : s.advance.disp = s.disp := rfl
@[simp] theorem State.advance_keys (s : State) : s.advance.keys = s.keys := rfl
@[simp] theorem State.advance_needsRedraw (s : State) : s.advance.needsRedraw = s.needsRedraw := rfl
@[simp] theorem State.advance_runState (s : State) : s.advance.runState = s.runState := rfl
@[simp] theorem State.advance_waitReg (s : State) : s.advance.waitReg = s.waitReg := rfl
@[simp] theorem State.advance_keyPrev (s : State) : s.advance.keyPrev = s.keyPrev := rfl
@[simp] theorem State.advance_haltCause (s : State) : s.advance.haltCause = s.haltCause := rfl
@[simp] theorem State.advance_haltAddr (s : State) : s.advance.haltAddr = s.haltAddr := rfl
@[simp] theorem State.advance_haltWord (s : State) : s.advance.haltWord = s.haltWord := rfl
@[simp] theorem State.advance_cfg (s : State) : s.advance.cfg = s.cfg := rfl
@[simp] theorem State.advance_rndCount (s : State) : s.advance.rndCount = s.rndCount := rfl
@[simp] theorem State.advance_readV (s : State) (j : RegIdx) : s.advance.readV j = s.readV j := rfl
@[simp] theorem State.advance_memByte (s : State) (a : Nat) : s.advance.memByte a = s.memByte a := rfl

/-! ## skipIf -/

@[simp] theorem State.skipIf_v (s : State) (c : Bool) : (s.skipIf c).v = s.v := rfl
@[simp] theorem State.skipIf_i (s : State) (c : Bool) : (s.skipIf c).i = s.i := rfl
@[simp] theorem State.skipIf_pc (s : State) (c : Bool) : (s.skipIf c).pc = if c then s.pc + 4 else s.pc + 2 := rfl
@[simp] theorem State.skipIf_sp (s : State) (c : Bool) : (s.skipIf c).sp = s.sp := rfl
@[simp] theorem State.skipIf_stack (s : State) (c : Bool) : (s.skipIf c).stack = s.stack := rfl
@[simp] theorem State.skipIf_dt (s : State) (c : Bool) : (s.skipIf c).dt = s.dt := rfl
@[simp] theorem State.skipIf_st (s : State) (c : Bool) : (s.skipIf c).st = s.st := rfl
@[simp] theorem State.skipIf_mem (s : State) (c : Bool) : (s.skipIf c).mem = s.mem := rfl
@[simp] theorem State.skipIf_disp (s : State) (c : Bool) : (s.skipIf c).disp = s.disp := rfl
@[simp] theorem State.skipIf_keys (s : State) (c : Bool) : (s.skipIf c).keys = s.keys := rfl
@[simp] theorem State.skipIf_needsRedraw (s : State) (c : Bool) : (s.skipIf c).needsRedraw = s.needsRedraw := rfl
@[simp] theorem State.skipIf_runState (s : State) (c : Bool) : (s.skipIf c).runState = s.runState := rfl
@[simp] theorem State.skipIf_waitReg (s : State) (c : Bool) : (s.skipIf c).waitReg = s.waitReg := rfl
@[simp] theorem State.skipIf_keyPrev (s : State) (c : Bool) : (s.skipIf c).keyPrev = s.keyPrev := rfl
@[simp] theorem State.skipIf_haltCause (s : State) (c : Bool) : (s.skipIf c).haltCause = s.haltCause := rfl
@[simp] theorem State.skipIf_haltAddr (s : State) (c : Bool) : (s.skipIf c).haltAddr = s.haltAddr := rfl
@[simp] theorem State.skipIf_haltWord (s : State) (c : Bool) : (s.skipIf c).haltWord = s.haltWord := rfl
@[simp] theorem State.skipIf_cfg (s : State) (c : Bool) : (s.skipIf c).cfg = s.cfg := rfl
@[simp] theorem State.skipIf_rndCount (s : State) (c : Bool) : (s.skipIf c).rndCount = s.rndCount := rfl
@[simp] theorem State.skipIf_readV (s : State) (c : Bool) (j : RegIdx) : (s.skipIf c).readV j = s.readV j := rfl
@[simp] theorem State.skipIf_memByte (s : State) (c : Bool) (a : Nat) : (s.skipIf c).memByte a = s.memByte a := rfl

/-! ## jump -/

@[simp] theorem State.jump_v (s : State) (w : Word) : (s.jump w).v = s.v := rfl
@[simp] theorem State.jump_i (s : State) (w : Word) : (s.jump w).i = s.i := rfl
@[simp] theorem State.jump_pc (s : State) (w : Word) : (s.jump w).pc = w := rfl
@[simp] theorem State.jump_sp (s : State) (w : Word) : (s.jump w).sp = s.sp := rfl
@[simp] theorem State.jump_stack (s : State) (w : Word) : (s.jump w).stack = s.stack := rfl
@[simp] theorem State.jump_dt (s : State) (w : Word) : (s.jump w).dt = s.dt := rfl
@[simp] theorem State.jump_st (s : State) (w : Word) : (s.jump w).st = s.st := rfl
@[simp] theorem State.jump_mem (s : State) (w : Word) : (s.jump w).mem = s.mem := rfl
@[simp] theorem State.jump_disp (s : State) (w : Word) : (s.jump w).disp = s.disp := rfl
@[simp] theorem State.jump_keys (s : State) (w : Word) : (s.jump w).keys = s.keys := rfl
@[simp] theorem State.jump_needsRedraw (s : State) (w : Word) : (s.jump w).needsRedraw = s.needsRedraw := rfl
@[simp] theorem State.jump_runState (s : State) (w : Word) : (s.jump w).runState = s.runState := rfl
@[simp] theorem State.jump_waitReg (s : State) (w : Word) : (s.jump w).waitReg = s.waitReg := rfl
@[simp] theorem State.jump_keyPrev (s : State) (w : Word) : (s.jump w).keyPrev = s.keyPrev := rfl
@[simp] theorem State.jump_haltCause (s : State) (w : Word) : (s.jump w).haltCause = s.haltCause := rfl
@[simp] theorem State.jump_haltAddr (s : State) (w : Word) : (s.jump w).haltAddr = s.haltAddr := rfl
@[simp] theorem State.jump_haltWord (s : State) (w : Word) : (s.jump w).haltWord = s.haltWord := rfl
@[simp] theorem State.jump_cfg (s : State) (w : Word) : (s.jump w).cfg = s.cfg := rfl
@[simp] theorem State.jump_rndCount (s : State) (w : Word) : (s.jump w).rndCount = s.rndCount := rfl
@[simp] theorem State.jump_readV (s : State) (w : Word) (j : RegIdx) : (s.jump w).readV j = s.readV j := rfl
@[simp] theorem State.jump_memByte (s : State) (w : Word) (a : Nat) : (s.jump w).memByte a = s.memByte a := rfl

/-! ## storeBytes -/

@[simp] theorem State.storeBytes_v (s : State) (a : Nat) (bs : List Byte) : (s.storeBytes a bs).v = s.v := rfl
@[simp] theorem State.storeBytes_i (s : State) (a : Nat) (bs : List Byte) : (s.storeBytes a bs).i = s.i := rfl
@[simp] theorem State.storeBytes_pc (s : State) (a : Nat) (bs : List Byte) : (s.storeBytes a bs).pc = s.pc := rfl
@[simp] theorem State.storeBytes_sp (s : State) (a : Nat) (bs : List Byte) : (s.storeBytes a bs).sp = s.sp := rfl
@[simp] theorem State.storeBytes_stack (s : State) (a : Nat) (bs : List Byte) : (s.storeBytes a bs).stack = s.stack := rfl
@[simp] theorem State.storeBytes_dt (s : State) (a : Nat) (bs : List Byte) : (s.storeBytes a bs).dt = s.dt := rfl
@[simp] theorem State.storeBytes_st (s : State) (a : Nat) (bs : List Byte) : (s.storeBytes a bs).st = s.st := rfl
@[simp] theorem State.storeBytes_mem (s : State) (a : Nat) (bs : List Byte) : (s.storeBytes a bs).mem = Memory.writeBytes s.cfg s.mem a bs := rfl
@[simp] theorem State.storeBytes_disp (s : State) (a : Nat) (bs : List Byte) : (s.storeBytes a bs).disp = s.disp := rfl
@[simp] theorem State.storeBytes_keys (s : State) (a : Nat) (bs : List Byte) : (s.storeBytes a bs).keys = s.keys := rfl
@[simp] theorem State.storeBytes_needsRedraw (s : State) (a : Nat) (bs : List Byte) : (s.storeBytes a bs).needsRedraw = s.needsRedraw := rfl
@[simp] theorem State.storeBytes_runState (s : State) (a : Nat) (bs : List Byte) : (s.storeBytes a bs).runState = s.runState := rfl
@[simp] theorem State.storeBytes_waitReg (s : State) (a : Nat) (bs : List Byte) : (s.storeBytes a bs).waitReg = s.waitReg := rfl
@[simp] theorem State.storeBytes_keyPrev (s : State) (a : Nat) (bs : List Byte) : (s.storeBytes a bs).keyPrev = s.keyPrev := rfl
@[simp] theorem State.storeBytes_haltCause (s : State) (a : Nat) (bs : List Byte) : (s.storeBytes a bs).haltCause = s.haltCause := rfl
@[simp] theorem State.storeBytes_haltAddr (s : State) (a : Nat) (bs : List Byte) : (s.storeBytes a bs).haltAddr = s.haltAddr := rfl
@[simp] theorem State.storeBytes_haltWord (s : State) (a : Nat) (bs : List Byte) : (s.storeBytes a bs).haltWord = s.haltWord := rfl
@[simp] theorem State.storeBytes_cfg (s : State) (a : Nat) (bs : List Byte) : (s.storeBytes a bs).cfg = s.cfg := rfl
@[simp] theorem State.storeBytes_rndCount (s : State) (a : Nat) (bs : List Byte) : (s.storeBytes a bs).rndCount = s.rndCount := rfl
@[simp] theorem State.storeBytes_readV (s : State) (a : Nat) (bs : List Byte) (j : RegIdx) : (s.storeBytes a bs).readV j = s.readV j := rfl

/-! ## raiseHalt -/

@[simp] theorem State.raiseHalt_v (s : State) (c : HaltCause) (w : Word) : (s.raiseHalt c w).v = s.v := rfl
@[simp] theorem State.raiseHalt_i (s : State) (c : HaltCause) (w : Word) : (s.raiseHalt c w).i = s.i := rfl
@[simp] theorem State.raiseHalt_pc (s : State) (c : HaltCause) (w : Word) : (s.raiseHalt c w).pc = s.pc := rfl
@[simp] theorem State.raiseHalt_sp (s : State) (c : HaltCause) (w : Word) : (s.raiseHalt c w).sp = s.sp := rfl
@[simp] theorem State.raiseHalt_stack (s : State) (c : HaltCause) (w : Word) : (s.raiseHalt c w).stack = s.stack := rfl
@[simp] theorem State.raiseHalt_dt (s : State) (c : HaltCause) (w : Word) : (s.raiseHalt c w).dt = s.dt := rfl
@[simp] theorem State.raiseHalt_st (s : State) (c : HaltCause) (w : Word) : (s.raiseHalt c w).st = s.st := rfl
@[simp] theorem State.raiseHalt_mem (s : State) (c : HaltCause) (w : Word) : (s.raiseHalt c w).mem = s.mem := rfl
@[simp] theorem State.raiseHalt_disp (s : State) (c : HaltCause) (w : Word) : (s.raiseHalt c w).disp = s.disp := rfl
@[simp] theorem State.raiseHalt_keys (s : State) (c : HaltCause) (w : Word) : (s.raiseHalt c w).keys = s.keys := rfl
@[simp] theorem State.raiseHalt_needsRedraw (s : State) (c : HaltCause) (w : Word) : (s.raiseHalt c w).needsRedraw = s.needsRedraw := rfl
@[simp] theorem State.raiseHalt_runState (s : State) (c : HaltCause) (w : Word) : (s.raiseHalt c w).runState = .halted := rfl
@[simp] theorem State.raiseHalt_waitReg (s : State) (c : HaltCause) (w : Word) : (s.raiseHalt c w).waitReg = s.waitReg := rfl
@[simp] theorem State.raiseHalt_keyPrev (s : State) (c : HaltCause) (w : Word) : (s.raiseHalt c w).keyPrev = s.keyPrev := rfl
@[simp] theorem State.raiseHalt_haltCause (s : State) (c : HaltCause) (w : Word) : (s.raiseHalt c w).haltCause = c := rfl
@[simp] theorem State.raiseHalt_haltAddr (s : State) (c : HaltCause) (w : Word) : (s.raiseHalt c w).haltAddr = s.pc := rfl
@[simp] theorem State.raiseHalt_haltWord (s : State) (c : HaltCause) (w : Word) : (s.raiseHalt c w).haltWord = w := rfl
@[simp] theorem State.raiseHalt_cfg (s : State) (c : HaltCause) (w : Word) : (s.raiseHalt c w).cfg = s.cfg := rfl
@[simp] theorem State.raiseHalt_rndCount (s : State) (c : HaltCause) (w : Word) : (s.raiseHalt c w).rndCount = s.rndCount := rfl
@[simp] theorem State.raiseHalt_readV (s : State) (c : HaltCause) (w : Word) (j : RegIdx) : (s.raiseHalt c w).readV j = s.readV j := rfl
@[simp] theorem State.raiseHalt_memByte (s : State) (c : HaltCause) (w : Word) (a : Nat) : (s.raiseHalt c w).memByte a = s.memByte a := rfl
@[simp] theorem State.raiseHalt_fetchWord? (s : State) (c : HaltCause) (w : Word) : (s.raiseHalt c w).fetchWord? = s.fetchWord? := rfl

/-! ## random -/

@[simp] theorem State.random_v (s : State) (r : Byte) (x : RegIdx) (kk : Byte) : (s.random r x kk).v = s.v.set x.val (r &&& kk) := rfl
@[simp] theorem State.random_i (s : State) (r : Byte) (x : RegIdx) (kk : Byte) : (s.random r x kk).i = s.i := rfl
@[simp] theorem State.random_pc (s : State) (r : Byte) (x : RegIdx) (kk : Byte) : (s.random r x kk).pc = s.pc := rfl
@[simp] theorem State.random_sp (s : State) (r : Byte) (x : RegIdx) (kk : Byte) : (s.random r x kk).sp = s.sp := rfl
@[simp] theorem State.random_stack (s : State) (r : Byte) (x : RegIdx) (kk : Byte) : (s.random r x kk).stack = s.stack := rfl
@[simp] theorem State.random_dt (s : State) (r : Byte) (x : RegIdx) (kk : Byte) : (s.random r x kk).dt = s.dt := rfl
@[simp] theorem State.random_st (s : State) (r : Byte) (x : RegIdx) (kk : Byte) : (s.random r x kk).st = s.st := rfl
@[simp] theorem State.random_mem (s : State) (r : Byte) (x : RegIdx) (kk : Byte) : (s.random r x kk).mem = s.mem := rfl
@[simp] theorem State.random_disp (s : State) (r : Byte) (x : RegIdx) (kk : Byte) : (s.random r x kk).disp = s.disp := rfl
@[simp] theorem State.random_keys (s : State) (r : Byte) (x : RegIdx) (kk : Byte) : (s.random r x kk).keys = s.keys := rfl
@[simp] theorem State.random_needsRedraw (s : State) (r : Byte) (x : RegIdx) (kk : Byte) : (s.random r x kk).needsRedraw = s.needsRedraw := rfl
@[simp] theorem State.random_runState (s : State) (r : Byte) (x : RegIdx) (kk : Byte) : (s.random r x kk).runState = s.runState := rfl
@[simp] theorem State.random_waitReg (s : State) (r : Byte) (x : RegIdx) (kk : Byte) : (s.random r x kk).waitReg = s.waitReg := rfl
@[simp] theorem State.random_keyPrev (s : State) (r : Byte) (x : RegIdx) (kk : Byte) : (s.random r x kk).keyPrev = s.keyPrev := rfl
@[simp] theorem State.random_haltCause (s : State) (r : Byte) (x : RegIdx) (kk : Byte) : (s.random r x kk).haltCause = s.haltCause := rfl
@[simp] theorem State.random_haltAddr (s : State) (r : Byte) (x : RegIdx) (kk : Byte) : (s.random r x kk).haltAddr = s.haltAddr := rfl
@[simp] theorem State.random_haltWord (s : State) (r : Byte) (x : RegIdx) (kk : Byte) : (s.random r x kk).haltWord = s.haltWord := rfl
@[simp] theorem State.random_cfg (s : State) (r : Byte) (x : RegIdx) (kk : Byte) : (s.random r x kk).cfg = s.cfg := rfl
@[simp] theorem State.random_rndCount (s : State) (r : Byte) (x : RegIdx) (kk : Byte) : (s.random r x kk).rndCount = s.rndCount + 1 := rfl
@[simp] theorem State.random_memByte (s : State) (r : Byte) (x : RegIdx) (kk : Byte) (a : Nat) : (s.random r x kk).memByte a = s.memByte a := rfl
@[simp] theorem State.random_fetchWord? (s : State) (r : Byte) (x : RegIdx) (kk : Byte) : (s.random r x kk).fetchWord? = s.fetchWord? := rfl

/-! ## beginWait -/

@[simp] theorem State.beginWait_v (s : State) (x : RegIdx) : (s.beginWait x).v = s.v := rfl
@[simp] theorem State.beginWait_i (s : State) (x : RegIdx) : (s.beginWait x).i = s.i := rfl
@[simp] theorem State.beginWait_pc (s : State) (x : RegIdx) : (s.beginWait x).pc = s.pc := rfl
@[simp] theorem State.beginWait_sp (s : State) (x : RegIdx) : (s.beginWait x).sp = s.sp := rfl
@[simp] theorem State.beginWait_stack (s : State) (x : RegIdx) : (s.beginWait x).stack = s.stack := rfl
@[simp] theorem State.beginWait_dt (s : State) (x : RegIdx) : (s.beginWait x).dt = s.dt := rfl
@[simp] theorem State.beginWait_st (s : State) (x : RegIdx) : (s.beginWait x).st = s.st := rfl
@[simp] theorem State.beginWait_mem (s : State) (x : RegIdx) : (s.beginWait x).mem = s.mem := rfl
@[simp] theorem State.beginWait_disp (s : State) (x : RegIdx) : (s.beginWait x).disp = s.disp := rfl
@[simp] theorem State.beginWait_keys (s : State) (x : RegIdx) : (s.beginWait x).keys = s.keys := rfl
@[simp] theorem State.beginWait_needsRedraw (s : State) (x : RegIdx) : (s.beginWait x).needsRedraw = s.needsRedraw := rfl
@[simp] theorem State.beginWait_runState (s : State) (x : RegIdx) : (s.beginWait x).runState = .awaitingKey := rfl
@[simp] theorem State.beginWait_waitReg (s : State) (x : RegIdx) : (s.beginWait x).waitReg = x := rfl
@[simp] theorem State.beginWait_keyPrev (s : State) (x : RegIdx) : (s.beginWait x).keyPrev = s.keys := rfl
@[simp] theorem State.beginWait_haltCause (s : State) (x : RegIdx) : (s.beginWait x).haltCause = s.haltCause := rfl
@[simp] theorem State.beginWait_haltAddr (s : State) (x : RegIdx) : (s.beginWait x).haltAddr = s.haltAddr := rfl
@[simp] theorem State.beginWait_haltWord (s : State) (x : RegIdx) : (s.beginWait x).haltWord = s.haltWord := rfl
@[simp] theorem State.beginWait_cfg (s : State) (x : RegIdx) : (s.beginWait x).cfg = s.cfg := rfl
@[simp] theorem State.beginWait_rndCount (s : State) (x : RegIdx) : (s.beginWait x).rndCount = s.rndCount := rfl
@[simp] theorem State.beginWait_readV (s : State) (x : RegIdx) (j : RegIdx) : (s.beginWait x).readV j = s.readV j := rfl
@[simp] theorem State.beginWait_memByte (s : State) (x : RegIdx) (a : Nat) : (s.beginWait x).memByte a = s.memByte a := rfl
@[simp] theorem State.beginWait_fetchWord? (s : State) (x : RegIdx) : (s.beginWait x).fetchWord? = s.fetchWord? := rfl

/-! ## keySet -/

@[simp] theorem State.keySet_v (s : State) (k : KeyIdx) (b : Bool) : (s.keySet k b).v = s.v := rfl
@[simp] theorem State.keySet_i (s : State) (k : KeyIdx) (b : Bool) : (s.keySet k b).i = s.i := rfl
@[simp] theorem State.keySet_pc (s : State) (k : KeyIdx) (b : Bool) : (s.keySet k b).pc = s.pc := rfl
@[simp] theorem State.keySet_sp (s : State) (k : KeyIdx) (b : Bool) : (s.keySet k b).sp = s.sp := rfl
@[simp] theorem State.keySet_stack (s : State) (k : KeyIdx) (b : Bool) : (s.keySet k b).stack = s.stack := rfl
@[simp] theorem State.keySet_dt (s : State) (k : KeyIdx) (b : Bool) : (s.keySet k b).dt = s.dt := rfl
@[simp] theorem State.keySet_st (s : State) (k : KeyIdx) (b : Bool) : (s.keySet k b).st = s.st := rfl
@[simp] theorem State.keySet_mem (s : State) (k : KeyIdx) (b : Bool) : (s.keySet k b).mem = s.mem := rfl
@[simp] theorem State.keySet_disp (s : State) (k : KeyIdx) (b : Bool) : (s.keySet k b).disp = s.disp := rfl
@[simp] theorem State.keySet_keys (s : State) (k : KeyIdx) (b : Bool) : (s.keySet k b).keys = s.keys.set k.val b := rfl
@[simp] theorem State.keySet_needsRedraw (s : State) (k : KeyIdx) (b : Bool) : (s.keySet k b).needsRedraw = s.needsRedraw := rfl
@[simp] theorem State.keySet_runState (s : State) (k : KeyIdx) (b : Bool) : (s.keySet k b).runState = s.runState := rfl
@[simp] theorem State.keySet_waitReg (s : State) (k : KeyIdx) (b : Bool) : (s.keySet k b).waitReg = s.waitReg := rfl
@[simp] theorem State.keySet_keyPrev (s : State) (k : KeyIdx) (b : Bool) : (s.keySet k b).keyPrev = s.keyPrev := rfl
@[simp] theorem State.keySet_haltCause (s : State) (k : KeyIdx) (b : Bool) : (s.keySet k b).haltCause = s.haltCause := rfl
@[simp] theorem State.keySet_haltAddr (s : State) (k : KeyIdx) (b : Bool) : (s.keySet k b).haltAddr = s.haltAddr := rfl
@[simp] theorem State.keySet_haltWord (s : State) (k : KeyIdx) (b : Bool) : (s.keySet k b).haltWord = s.haltWord := rfl
@[simp] theorem State.keySet_cfg (s : State) (k : KeyIdx) (b : Bool) : (s.keySet k b).cfg = s.cfg := rfl
@[simp] theorem State.keySet_rndCount (s : State) (k : KeyIdx) (b : Bool) : (s.keySet k b).rndCount = s.rndCount := rfl
@[simp] theorem State.keySet_readV (s : State) (k : KeyIdx) (b : Bool) (j : RegIdx) : (s.keySet k b).readV j = s.readV j := rfl
@[simp] theorem State.keySet_memByte (s : State) (k : KeyIdx) (b : Bool) (a : Nat) : (s.keySet k b).memByte a = s.memByte a := rfl
@[simp] theorem State.keySet_fetchWord? (s : State) (k : KeyIdx) (b : Bool) : (s.keySet k b).fetchWord? = s.fetchWord? := rfl

/-! ## redrawAck -/

@[simp] theorem State.redrawAck_v (s : State) : s.redrawAck.v = s.v := rfl
@[simp] theorem State.redrawAck_i (s : State) : s.redrawAck.i = s.i := rfl
@[simp] theorem State.redrawAck_pc (s : State) : s.redrawAck.pc = s.pc := rfl
@[simp] theorem State.redrawAck_sp (s : State) : s.redrawAck.sp = s.sp := rfl
@[simp] theorem State.redrawAck_stack (s : State) : s.redrawAck.stack = s.stack := rfl
@[simp] theorem State.redrawAck_dt (s : State) : s.redrawAck.dt = s.dt := rfl
@[simp] theorem State.redrawAck_st (s : State) : s.redrawAck.st = s.st := rfl
@[simp] theorem State.redrawAck_mem (s : State) : s.redrawAck.mem = s.mem := rfl
@[simp] theorem State.redrawAck_disp (s : State) : s.redrawAck.disp = s.disp := rfl
@[simp] theorem State.redrawAck_keys (s : State) : s.redrawAck.keys = s.keys := rfl
@[simp] theorem State.redrawAck_needsRedraw (s : State) : s.redrawAck.needsRedraw = false := rfl
@[simp] theorem State.redrawAck_runState (s : State) : s.redrawAck.runState = s.runState := rfl
@[simp] theorem State.redrawAck_waitReg (s : State) : s.redrawAck.waitReg = s.waitReg := rfl
@[simp] theorem State.redrawAck_keyPrev (s : State) : s.redrawAck.keyPrev = s.keyPrev := rfl
@[simp] theorem State.redrawAck_haltCause (s : State) : s.redrawAck.haltCause = s.haltCause := rfl
@[simp] theorem State.redrawAck_haltAddr (s : State) : s.redrawAck.haltAddr = s.haltAddr := rfl
@[simp] theorem State.redrawAck_haltWord (s : State) : s.redrawAck.haltWord = s.haltWord := rfl
@[simp] theorem State.redrawAck_cfg (s : State) : s.redrawAck.cfg = s.cfg := rfl
@[simp] theorem State.redrawAck_rndCount (s : State) : s.redrawAck.rndCount = s.rndCount := rfl
@[simp] theorem State.redrawAck_readV (s : State) (j : RegIdx) : s.redrawAck.readV j = s.readV j := rfl
@[simp] theorem State.redrawAck_memByte (s : State) (a : Nat) : s.redrawAck.memByte a = s.memByte a := rfl
@[simp] theorem State.redrawAck_fetchWord? (s : State) : s.redrawAck.fetchWord? = s.fetchWord? := rfl

/-! ## shiftSource: every field it leaves alone -/

@[simp] theorem State.shiftSource_i (s : State) (x y : RegIdx) : (s.shiftSource x y).i = s.i := rfl
@[simp] theorem State.shiftSource_pc (s : State) (x y : RegIdx) : (s.shiftSource x y).pc = s.pc := rfl
@[simp] theorem State.shiftSource_sp (s : State) (x y : RegIdx) : (s.shiftSource x y).sp = s.sp := rfl
@[simp] theorem State.shiftSource_stack (s : State) (x y : RegIdx) : (s.shiftSource x y).stack = s.stack := rfl
@[simp] theorem State.shiftSource_dt (s : State) (x y : RegIdx) : (s.shiftSource x y).dt = s.dt := rfl
@[simp] theorem State.shiftSource_st (s : State) (x y : RegIdx) : (s.shiftSource x y).st = s.st := rfl
@[simp] theorem State.shiftSource_mem (s : State) (x y : RegIdx) : (s.shiftSource x y).mem = s.mem := rfl
@[simp] theorem State.shiftSource_disp (s : State) (x y : RegIdx) : (s.shiftSource x y).disp = s.disp := rfl
@[simp] theorem State.shiftSource_keys (s : State) (x y : RegIdx) : (s.shiftSource x y).keys = s.keys := rfl
@[simp] theorem State.shiftSource_needsRedraw (s : State) (x y : RegIdx) : (s.shiftSource x y).needsRedraw = s.needsRedraw := rfl
@[simp] theorem State.shiftSource_runState (s : State) (x y : RegIdx) : (s.shiftSource x y).runState = s.runState := rfl
@[simp] theorem State.shiftSource_waitReg (s : State) (x y : RegIdx) : (s.shiftSource x y).waitReg = s.waitReg := rfl
@[simp] theorem State.shiftSource_keyPrev (s : State) (x y : RegIdx) : (s.shiftSource x y).keyPrev = s.keyPrev := rfl
@[simp] theorem State.shiftSource_haltCause (s : State) (x y : RegIdx) : (s.shiftSource x y).haltCause = s.haltCause := rfl
@[simp] theorem State.shiftSource_haltAddr (s : State) (x y : RegIdx) : (s.shiftSource x y).haltAddr = s.haltAddr := rfl
@[simp] theorem State.shiftSource_haltWord (s : State) (x y : RegIdx) : (s.shiftSource x y).haltWord = s.haltWord := rfl
@[simp] theorem State.shiftSource_cfg (s : State) (x y : RegIdx) : (s.shiftSource x y).cfg = s.cfg := rfl
@[simp] theorem State.shiftSource_rndCount (s : State) (x y : RegIdx) : (s.shiftSource x y).rndCount = s.rndCount := rfl
@[simp] theorem State.shiftSource_memByte (s : State) (x y : RegIdx) (a : Nat) : (s.shiftSource x y).memByte a = s.memByte a := rfl

/-! ## writeResultThenFlag: every field it leaves alone -/

@[simp] theorem State.writeResultThenFlag_i (s : State) (x : RegIdx) (r f : Byte) : (s.writeResultThenFlag x r f).i = s.i := rfl
@[simp] theorem State.writeResultThenFlag_pc (s : State) (x : RegIdx) (r f : Byte) : (s.writeResultThenFlag x r f).pc = s.pc := rfl
@[simp] theorem State.writeResultThenFlag_sp (s : State) (x : RegIdx) (r f : Byte) : (s.writeResultThenFlag x r f).sp = s.sp := rfl
@[simp] theorem State.writeResultThenFlag_stack (s : State) (x : RegIdx) (r f : Byte) : (s.writeResultThenFlag x r f).stack = s.stack := rfl
@[simp] theorem State.writeResultThenFlag_dt (s : State) (x : RegIdx) (r f : Byte) : (s.writeResultThenFlag x r f).dt = s.dt := rfl
@[simp] theorem State.writeResultThenFlag_st (s : State) (x : RegIdx) (r f : Byte) : (s.writeResultThenFlag x r f).st = s.st := rfl
@[simp] theorem State.writeResultThenFlag_mem (s : State) (x : RegIdx) (r f : Byte) : (s.writeResultThenFlag x r f).mem = s.mem := rfl
@[simp] theorem State.writeResultThenFlag_disp (s : State) (x : RegIdx) (r f : Byte) : (s.writeResultThenFlag x r f).disp = s.disp := rfl
@[simp] theorem State.writeResultThenFlag_keys (s : State) (x : RegIdx) (r f : Byte) : (s.writeResultThenFlag x r f).keys = s.keys := rfl
@[simp] theorem State.writeResultThenFlag_needsRedraw (s : State) (x : RegIdx) (r f : Byte) : (s.writeResultThenFlag x r f).needsRedraw = s.needsRedraw := rfl
@[simp] theorem State.writeResultThenFlag_runState (s : State) (x : RegIdx) (r f : Byte) : (s.writeResultThenFlag x r f).runState = s.runState := rfl
@[simp] theorem State.writeResultThenFlag_waitReg (s : State) (x : RegIdx) (r f : Byte) : (s.writeResultThenFlag x r f).waitReg = s.waitReg := rfl
@[simp] theorem State.writeResultThenFlag_keyPrev (s : State) (x : RegIdx) (r f : Byte) : (s.writeResultThenFlag x r f).keyPrev = s.keyPrev := rfl
@[simp] theorem State.writeResultThenFlag_haltCause (s : State) (x : RegIdx) (r f : Byte) : (s.writeResultThenFlag x r f).haltCause = s.haltCause := rfl
@[simp] theorem State.writeResultThenFlag_haltAddr (s : State) (x : RegIdx) (r f : Byte) : (s.writeResultThenFlag x r f).haltAddr = s.haltAddr := rfl
@[simp] theorem State.writeResultThenFlag_haltWord (s : State) (x : RegIdx) (r f : Byte) : (s.writeResultThenFlag x r f).haltWord = s.haltWord := rfl
@[simp] theorem State.writeResultThenFlag_cfg (s : State) (x : RegIdx) (r f : Byte) : (s.writeResultThenFlag x r f).cfg = s.cfg := rfl
@[simp] theorem State.writeResultThenFlag_rndCount (s : State) (x : RegIdx) (r f : Byte) : (s.writeResultThenFlag x r f).rndCount = s.rndCount := rfl
@[simp] theorem State.writeResultThenFlag_memByte (s : State) (x : RegIdx) (r f : Byte) (a : Nat) : (s.writeResultThenFlag x r f).memByte a = s.memByte a := rfl

/-! ## writeFlagThenResult: every field it leaves alone -/

@[simp] theorem State.writeFlagThenResult_i (s : State) (x : RegIdx) (f : Byte) (g : Byte → Byte) : (s.writeFlagThenResult x f g).i = s.i := rfl
@[simp] theorem State.writeFlagThenResult_pc (s : State) (x : RegIdx) (f : Byte) (g : Byte → Byte) : (s.writeFlagThenResult x f g).pc = s.pc := rfl
@[simp] theorem State.writeFlagThenResult_sp (s : State) (x : RegIdx) (f : Byte) (g : Byte → Byte) : (s.writeFlagThenResult x f g).sp = s.sp := rfl
@[simp] theorem State.writeFlagThenResult_stack (s : State) (x : RegIdx) (f : Byte) (g : Byte → Byte) : (s.writeFlagThenResult x f g).stack = s.stack := rfl
@[simp] theorem State.writeFlagThenResult_dt (s : State) (x : RegIdx) (f : Byte) (g : Byte → Byte) : (s.writeFlagThenResult x f g).dt = s.dt := rfl
@[simp] theorem State.writeFlagThenResult_st (s : State) (x : RegIdx) (f : Byte) (g : Byte → Byte) : (s.writeFlagThenResult x f g).st = s.st := rfl
@[simp] theorem State.writeFlagThenResult_mem (s : State) (x : RegIdx) (f : Byte) (g : Byte → Byte) : (s.writeFlagThenResult x f g).mem = s.mem := rfl
@[simp] theorem State.writeFlagThenResult_disp (s : State) (x : RegIdx) (f : Byte) (g : Byte → Byte) : (s.writeFlagThenResult x f g).disp = s.disp := rfl
@[simp] theorem State.writeFlagThenResult_keys (s : State) (x : RegIdx) (f : Byte) (g : Byte → Byte) : (s.writeFlagThenResult x f g).keys = s.keys := rfl
@[simp] theorem State.writeFlagThenResult_needsRedraw (s : State) (x : RegIdx) (f : Byte) (g : Byte → Byte) : (s.writeFlagThenResult x f g).needsRedraw = s.needsRedraw := rfl
@[simp] theorem State.writeFlagThenResult_runState (s : State) (x : RegIdx) (f : Byte) (g : Byte → Byte) : (s.writeFlagThenResult x f g).runState = s.runState := rfl
@[simp] theorem State.writeFlagThenResult_waitReg (s : State) (x : RegIdx) (f : Byte) (g : Byte → Byte) : (s.writeFlagThenResult x f g).waitReg = s.waitReg := rfl
@[simp] theorem State.writeFlagThenResult_keyPrev (s : State) (x : RegIdx) (f : Byte) (g : Byte → Byte) : (s.writeFlagThenResult x f g).keyPrev = s.keyPrev := rfl
@[simp] theorem State.writeFlagThenResult_haltCause (s : State) (x : RegIdx) (f : Byte) (g : Byte → Byte) : (s.writeFlagThenResult x f g).haltCause = s.haltCause := rfl
@[simp] theorem State.writeFlagThenResult_haltAddr (s : State) (x : RegIdx) (f : Byte) (g : Byte → Byte) : (s.writeFlagThenResult x f g).haltAddr = s.haltAddr := rfl
@[simp] theorem State.writeFlagThenResult_haltWord (s : State) (x : RegIdx) (f : Byte) (g : Byte → Byte) : (s.writeFlagThenResult x f g).haltWord = s.haltWord := rfl
@[simp] theorem State.writeFlagThenResult_cfg (s : State) (x : RegIdx) (f : Byte) (g : Byte → Byte) : (s.writeFlagThenResult x f g).cfg = s.cfg := rfl
@[simp] theorem State.writeFlagThenResult_rndCount (s : State) (x : RegIdx) (f : Byte) (g : Byte → Byte) : (s.writeFlagThenResult x f g).rndCount = s.rndCount := rfl
@[simp] theorem State.writeFlagThenResult_memByte (s : State) (x : RegIdx) (f : Byte) (g : Byte → Byte) (a : Nat) : (s.writeFlagThenResult x f g).memByte a = s.memByte a := rfl

/-! ## drawSprite: every field it leaves alone -/

@[simp] theorem State.drawSprite_i (s : State) (x y : RegIdx) (n : Fin 16) : (s.drawSprite x y n).i = s.i := rfl
@[simp] theorem State.drawSprite_pc (s : State) (x y : RegIdx) (n : Fin 16) : (s.drawSprite x y n).pc = s.pc := rfl
@[simp] theorem State.drawSprite_sp (s : State) (x y : RegIdx) (n : Fin 16) : (s.drawSprite x y n).sp = s.sp := rfl
@[simp] theorem State.drawSprite_stack (s : State) (x y : RegIdx) (n : Fin 16) : (s.drawSprite x y n).stack = s.stack := rfl
@[simp] theorem State.drawSprite_dt (s : State) (x y : RegIdx) (n : Fin 16) : (s.drawSprite x y n).dt = s.dt := rfl
@[simp] theorem State.drawSprite_st (s : State) (x y : RegIdx) (n : Fin 16) : (s.drawSprite x y n).st = s.st := rfl
@[simp] theorem State.drawSprite_mem (s : State) (x y : RegIdx) (n : Fin 16) : (s.drawSprite x y n).mem = s.mem := rfl
@[simp] theorem State.drawSprite_keys (s : State) (x y : RegIdx) (n : Fin 16) : (s.drawSprite x y n).keys = s.keys := rfl
@[simp] theorem State.drawSprite_runState (s : State) (x y : RegIdx) (n : Fin 16) : (s.drawSprite x y n).runState = s.runState := rfl
@[simp] theorem State.drawSprite_waitReg (s : State) (x y : RegIdx) (n : Fin 16) : (s.drawSprite x y n).waitReg = s.waitReg := rfl
@[simp] theorem State.drawSprite_keyPrev (s : State) (x y : RegIdx) (n : Fin 16) : (s.drawSprite x y n).keyPrev = s.keyPrev := rfl
@[simp] theorem State.drawSprite_haltCause (s : State) (x y : RegIdx) (n : Fin 16) : (s.drawSprite x y n).haltCause = s.haltCause := rfl
@[simp] theorem State.drawSprite_haltAddr (s : State) (x y : RegIdx) (n : Fin 16) : (s.drawSprite x y n).haltAddr = s.haltAddr := rfl
@[simp] theorem State.drawSprite_haltWord (s : State) (x y : RegIdx) (n : Fin 16) : (s.drawSprite x y n).haltWord = s.haltWord := rfl
@[simp] theorem State.drawSprite_cfg (s : State) (x y : RegIdx) (n : Fin 16) : (s.drawSprite x y n).cfg = s.cfg := rfl
@[simp] theorem State.drawSprite_rndCount (s : State) (x y : RegIdx) (n : Fin 16) : (s.drawSprite x y n).rndCount = s.rndCount := rfl
@[simp] theorem State.drawSprite_memByte (s : State) (x y : RegIdx) (n : Fin 16) (a : Nat) : (s.drawSprite x y n).memByte a = s.memByte a := rfl

/-! ## Reading back a register that was written -/

theorem State.readV_writeV (s : State) (x j : RegIdx) (b : Byte) :
    (s.writeV x b).readV j = if x = j then b else s.readV j := by
  simp only [State.readV, State.writeV, Vector.getElem_set, Fin.val_inj]

@[simp] theorem State.readV_writeV_self (s : State) (x : RegIdx) (b : Byte) : (s.writeV x b).readV x = b := by
  simp [State.readV_writeV]

@[simp] theorem State.readV_writeV_ne (s : State) {x j : RegIdx} (b : Byte) (h : x ≠ j) :
    (s.writeV x b).readV j = s.readV j := by
  simp [State.readV_writeV, h]

theorem State.readV_random (s : State) (r : Byte) (x j : RegIdx) (kk : Byte) :
    (s.random r x kk).readV j = if x = j then r &&& kk else s.readV j :=
  State.readV_writeV s x j (r &&& kk)

end Sys2Proof.Machine
end

