-- ==== Sys2Proof/Laws/Ops.lean ====
section
/-! SUPPORT. What each shared operation does, said once: the range check, the byte runs, the stack, the fetch, the checked
data access, the flag writers, the reset and the key poll. -/

namespace Sys2Proof.Machine

/-! ## The range check and runs of bytes -/

theorem inRange_iff (a len : Nat) : inRange a len = true ↔ len = 0 ∨ a + len ≤ memSize := by
  simp only [inRange, memSize, Bool.not_eq_true', decide_eq_false_iff_not]
  omega

@[simp] theorem State.length_loadBytes (s : State) (a n : Nat) : (s.loadBytes a n).length = n := by
  simp [State.loadBytes]

theorem State.getElem?_loadBytes (s : State) (a n j : Nat) :
    (s.loadBytes a n)[j]? = if j < n then some (s.memByte (a + j)) else none := by
  simp only [State.loadBytes, List.getElem?_map]
  split <;> simp_all

@[simp] theorem State.length_regRun (s : State) (x : RegIdx) : (s.regRun x).length = x.val + 1 := by
  simp only [State.regRun, List.length_take, Vector.length_toList]
  omega

theorem State.getElem_regRun (s : State) (x j : RegIdx) (h : j.val < (s.regRun x).length) :
    (s.regRun x)[j.val] = s.readV j := by
  simp [State.regRun, State.readV]

/-- After a run of bytes is stored inside memory: the stored byte in the run, the old byte everywhere else. -/
theorem State.memByte_storeBytes {s : State} (h : Memory.wf s.cfg s.mem) (a : Nat) (bs : List Byte)
    (hfit : a + bs.length ≤ memSize) (j : Nat) :
    (s.storeBytes a bs).memByte j = if hj : a ≤ j ∧ j < a + bs.length then bs[j - a]'(by omega) else s.memByte j :=
  Memory.read_writeBytes h a bs hfit j

theorem getElem_loadRegs (c : Config) (m : Memory) (a n : Nat) (v : Vector Byte 16) (j : Nat) (hj : j < 16) :
    (loadRegs c m a n v)[j] = if j < n then Memory.read c m (a + j) else v[j] := by
  induction n with
  | zero => simp [loadRegs]
  | succ k ih =>
    simp only [loadRegs, Vector.getElem_setIfInBounds, ih]
    by_cases hk : k = j
    · simp [hk]
    · simp only [if_neg hk]
      by_cases hjk : j < k
      · simp [hjk, Nat.lt_succ_of_lt hjk]
      · rw [if_neg hjk, if_neg (by omega)]

/-! ## The call stack -/

theorem State.push?_some {s : State} (ret : Word) (h : s.sp.val < 16) :
    s.push? ret = some { s with stack := s.stack.set s.sp.val ret, sp := ⟨s.sp.val + 1, Nat.succ_lt_succ h⟩ } := by
  simp [State.push?, stackDepth, h]

theorem State.push?_none {s : State} (ret : Word) (h : s.sp.val = 16) : s.push? ret = none := by
  simp [State.push?, stackDepth, h]

theorem State.pop?_none {s : State} (h : s.sp.val = 0) : s.pop? = none := by
  simp [State.pop?, h]

theorem State.pop?_some {s : State} (h : s.sp.val ≠ 0) :
    s.pop? = some (s.stack[s.sp.val - 1]'(by have := s.sp.isLt; simp only [stackDepth]; omega),
      { s with sp := ⟨s.sp.val - 1, by have := s.sp.isLt; omega⟩ }) := by
  simp [State.pop?, h]

/-! ## Fetch and the checked data access -/

theorem State.fetchWord?_of_le {s : State} (h : s.pc.toNat ≤ 4094) :
    s.fetchWord? = some (wordOfBytes (s.memByte s.pc.toNat) (s.memByte (s.pc.toNat + 1))) := by
  simp only [State.fetchWord?]
  rw [if_neg (by omega)]

theorem State.fetchWord?_of_gt {s : State} (h : 4094 < s.pc.toNat) : s.fetchWord? = none := by
  simp only [State.fetchWord?]
  rw [if_pos h]

theorem State.pc_le_of_fetch {s : State} {w : Word} (h : s.fetchWord? = some w) : s.pc.toNat ≤ 4094 := by
  by_contra hc
  rw [State.fetchWord?_of_gt (by omega)] at h
  cases h

/-- The fetch depends on the program counter, the bytes of memory and nothing else. -/
theorem State.fetchWord?_congr {s t : State} (hpc : t.pc = s.pc) (hmem : ∀ a, t.memByte a = s.memByte a) :
    t.fetchWord? = s.fetchWord? := by
  simp only [State.fetchWord?, hpc, hmem]

theorem State.withDataRange_of_inRange {s : State} {len : Nat} (w : Word) (f : State → State)
    (h : inRange s.i.toNat len = true) : s.withDataRange len w f = .next (f s).advance := by
  simp [State.withDataRange, h]

theorem State.withDataRange_of_outside {s : State} {len : Nat} (w : Word) (f : State → State)
    (h : inRange s.i.toNat len = false) : s.withDataRange len w f = .next (s.raiseHalt .dataOutOfBounds w) := by
  simp [State.withDataRange, h]

/-- The whole of what a checked data access can answer. -/
theorem State.withDataRange_cases (s : State) (len : Nat) (w : Word) (f : State → State) :
    (inRange s.i.toNat len = true ∧ s.withDataRange len w f = .next (f s).advance) ∨
    (inRange s.i.toNat len = false ∧ s.withDataRange len w f = .next (s.raiseHalt .dataOutOfBounds w)) := by
  cases h : inRange s.i.toNat len
  · exact .inr ⟨rfl, State.withDataRange_of_outside w f h⟩
  · exact .inl ⟨rfl, State.withDataRange_of_inRange w f h⟩

/-! ## The arithmetic writers -/

theorem State.readV_writeResultThenFlag (s : State) (x j : RegIdx) (r f : Byte) :
    (s.writeResultThenFlag x r f).readV j = if VF = j then f else if x = j then r else s.readV j := by
  simp only [State.writeResultThenFlag, State.readV_writeV]

theorem State.readV_writeFlagThenResult (s : State) (x j : RegIdx) (f : Byte) (g : Byte → Byte) :
    (s.writeFlagThenResult x f g).readV j =
      if x = j then g (if VF = x then f else s.readV x) else if VF = j then f else s.readV j := by
  simp only [State.writeFlagThenResult, State.readV_writeV]

theorem State.shiftOperand_eq (s : State) (x y : RegIdx) :
    s.shiftOperand x y = if s.cfg.shiftSrc = .x then s.readV x else s.readV y := by
  unfold State.shiftOperand
  cases s.cfg.shiftSrc <;> rfl

theorem State.readV_shiftSource (s : State) (x y j : RegIdx) :
    (s.shiftSource x y).readV j = if x = j then s.shiftOperand x y else s.readV j :=
  State.readV_writeV s x j _

theorem flagOf_toNat (b : Bool) : (flagOf b).toNat = if b then 1 else 0 := by
  cases b <;> rfl

theorem lowBitFlag_toNat (a : Byte) : (lowBitFlag a).toNat = a.toNat % 2 := by
  simp [lowBitFlag, Nat.and_one_is_mod]

theorem highBitFlag_toNat (a : Byte) : (highBitFlag a).toNat = a.toNat / 128 := by
  revert a
  decide

/-! ## Reset -/

theorem State.resetWith_of_fits (s : State) {rom : List Byte} (h : rom.length ≤ romMax) :
    s.resetWith rom = State.storeBytes { State.initial s.cfg with rndCount := s.rndCount } progBase rom := by
  simp only [State.resetWith]
  rw [if_neg (by omega)]

theorem State.resetWith_of_tooLarge (s : State) {rom : List Byte} (h : romMax < rom.length) :
    s.resetWith rom = State.raiseHalt { State.initial s.cfg with rndCount := s.rndCount } .romTooLarge 0 := by
  simp only [State.resetWith]
  rw [if_pos h]

end Sys2Proof.Machine
end

