-- ==== Sys2Proof/Laws/Display.lean ====
section
/-! SUPPORT. Pixels, and the draw primitive: which pixels it flips and when it reports a collision. -/

namespace Sys2Proof.Machine

theorem Display.pixel_setPixel (d : Display) (r r' : Fin 32) (c c' : Fin 64) (b : Bool) :
    Display.pixel (Display.setPixel d r c b) r' c' = if r = r' ∧ c = c' then b else Display.pixel d r' c' := by
  simp only [Display.pixel, Display.setPixel, Vector.getElem_set]
  by_cases hr : r = r'
  · subst hr
    simp [Vector.getElem_set, Fin.val_inj]
  · simp [hr, Fin.val_inj]

@[simp] theorem Display.pixel_clear (r : Fin 32) (c : Fin 64) : Display.pixel Display.clear r c = false := by
  simp [Display.pixel, Display.clear]

/-- Two displays with the same pixels are the same. -/
theorem Display.ext_pixel {d d' : Display} (h : ∀ r c, Display.pixel d r c = Display.pixel d' r c) : d = d' := by
  refine Vector.ext (fun r hr => Vector.ext (fun c hc => ?_))
  exact h ⟨r, hr⟩ ⟨c, hc⟩

/-- From display-and-collision `acc` to `out`, exactly the pixels of `hit` are flipped, and the collision is the old one or
an on pixel among them. -/
structure FlipsExactly (hit : Fin 32 → Fin 64 → Prop) (acc out : Display × Bool) : Prop where
  flipped : ∀ r c, hit r c → Display.pixel out.1 r c = !(Display.pixel acc.1 r c)
  kept : ∀ r c, ¬hit r c → Display.pixel out.1 r c = Display.pixel acc.1 r c
  collided : out.2 = true ↔ acc.2 = true ∨ ∃ r c, hit r c ∧ Display.pixel acc.1 r c = true

theorem FlipsExactly.refl (acc : Display × Bool) : FlipsExactly (fun _ _ => False) acc acc :=
  ⟨fun _ _ h => h.elim, fun _ _ _ => rfl, by simp⟩

theorem FlipsExactly.congr {hit hit' : Fin 32 → Fin 64 → Prop} {acc out : Display × Bool} (h : FlipsExactly hit acc out)
    (heq : ∀ r c, hit r c ↔ hit' r c) : FlipsExactly hit' acc out := by
  have : hit = hit' := by
    funext r c
    exact propext (heq r c)
  exact this ▸ h

/-- Two rounds of flips over disjoint sets of pixels. -/
theorem FlipsExactly.trans {hit₁ hit₂ : Fin 32 → Fin 64 → Prop} {acc mid out : Display × Bool}
    (h₁ : FlipsExactly hit₁ acc mid) (h₂ : FlipsExactly hit₂ mid out) (hd : ∀ r c, ¬(hit₁ r c ∧ hit₂ r c)) :
    FlipsExactly (fun r c => hit₁ r c ∨ hit₂ r c) acc out := by
  refine ⟨fun r c h => ?_, fun r c h => ?_, ?_⟩
  · rcases h with h | h
    · rw [h₂.kept r c (fun h' => hd r c ⟨h, h'⟩), h₁.flipped r c h]
    · rw [h₂.flipped r c h, h₁.kept r c (fun h' => hd r c ⟨h', h⟩)]
  · rw [h₂.kept r c (fun h' => h (.inr h')), h₁.kept r c (fun h' => h (.inl h'))]
  · rw [h₂.collided, h₁.collided]
    constructor
    · rintro ((h | ⟨r, c, h, hp⟩) | ⟨r, c, h, hp⟩)
      · exact .inl h
      · exact .inr ⟨r, c, .inl h, hp⟩
      · exact .inr ⟨r, c, .inr h, by rwa [h₁.kept r c (fun h' => hd r c ⟨h', h⟩)] at hp⟩
    · rintro (h | ⟨r, c, h | h, hp⟩)
      · exact .inl (.inl h)
      · exact .inl (.inr ⟨r, c, h, hp⟩)
      · exact .inr ⟨r, c, h, by rwa [h₁.kept r c (fun h' => hd r c ⟨h', h⟩)]⟩

theorem drawCell_flips (x0 y0 : Byte) (row col : Nat) (bit : Bool) (acc : Display × Bool) :
    FlipsExactly (fun r c => bit = true ∧ wrapRow y0 row = r ∧ wrapCol x0 col = c) acc
      (drawCell x0 y0 row col bit acc) := by
  cases bit with
  | false => exact (FlipsExactly.refl acc).congr (by simp)
  | true =>
    simp only [drawCell, if_true]
    refine ⟨fun r c h => ?_, fun r c h => ?_, ?_⟩
    · rw [Display.pixel_setPixel, if_pos h.2, h.2.1, h.2.2]
    · rw [Display.pixel_setPixel, if_neg (fun h' => h ⟨trivial, h'⟩)]
    · simp

theorem wrapCol_inj {x0 : Byte} {a b : Nat} (ha : a < 64) (hb : b < 64) (h : wrapCol x0 a = wrapCol x0 b) : a = b := by
  have := congrArg Fin.val h
  simp only [wrapCol] at this
  omega

theorem wrapRow_inj {y0 : Byte} {a b k : Nat} (ha : k ≤ a ∧ a < k + 32) (hb : k ≤ b ∧ b < k + 32)
    (h : wrapRow y0 a = wrapRow y0 b) : a = b := by
  have := congrArg Fin.val h
  simp only [wrapRow] at this
  omega

theorem drawCols_flips (x0 y0 : Byte) (row : Nat) (b : Byte) (n : Nat) (hn : n ≤ 8) (acc : Display × Bool) :
    FlipsExactly (fun r c => ∃ col, col < n ∧ spriteBit b col = true ∧ wrapRow y0 row = r ∧ wrapCol x0 col = c) acc
      (drawCols x0 y0 row b n acc) := by
  induction n with
  | zero => exact (FlipsExactly.refl acc).congr (by simp)
  | succ col ih =>
    refine ((ih (by omega)).trans (drawCell_flips x0 y0 row col (spriteBit b col) _) ?_).congr ?_
    · rintro r c ⟨⟨j, hj, -, -, hc⟩, -, -, hc'⟩
      have := wrapCol_inj (by omega) (by omega) (hc.trans hc'.symm)
      omega
    · intro r c
      constructor
      · rintro (⟨j, hj, h⟩ | h)
        · exact ⟨j, by omega, h⟩
        · exact ⟨col, by omega, h⟩
      · rintro ⟨j, hj, h⟩
        rcases Nat.lt_succ_iff_lt_or_eq.mp hj with hj | rfl
        · exact .inl ⟨j, hj, h⟩
        · exact .inr h

theorem drawRows_flips (x0 y0 : Byte) (bytes : List Byte) (row : Nat) (hlen : bytes.length ≤ 32) (acc : Display × Bool) :
    FlipsExactly (fun r c => ∃ k b col, bytes[k]? = some b ∧ col < 8 ∧ spriteBit b col = true ∧
        wrapRow y0 (row + k) = r ∧ wrapCol x0 col = c) acc (drawRows x0 y0 row bytes acc) := by
  induction bytes generalizing row acc with
  | nil => exact (FlipsExactly.refl acc).congr (by simp)
  | cons b rest ih =>
    simp only [List.length_cons] at hlen
    refine ((drawCols_flips x0 y0 row b 8 (le_refl _) acc).trans (ih (row + 1) (by omega) _) ?_).congr ?_
    · rintro r c ⟨⟨j, -, -, hr, -⟩, k, b', col, hk, -, -, hr', -⟩
      have hk' : k < rest.length := (List.getElem?_eq_some_iff.mp hk).1
      have := wrapRow_inj (k := row) (by omega) (by omega) (hr.trans hr'.symm)
      omega
    · intro r c
      constructor
      · rintro (⟨col, hcol, hb, hr, hc⟩ | ⟨k, b', col, hk, hcol, hb, hr, hc⟩)
        · exact ⟨0, b, col, by simp, hcol, hb, hr, hc⟩
        · exact ⟨k + 1, b', col, by simpa using hk, hcol, hb, by rw [← hr]; congr 1; omega, hc⟩
      · rintro ⟨k, b', col, hk, hcol, hb, hr, hc⟩
        cases k with
        | zero =>
          obtain rfl : b = b' := by simpa using hk
          exact .inl ⟨col, hcol, hb, hr, hc⟩
        | succ k => exact .inr ⟨k, b', col, by simpa using hk, hcol, hb, by rw [← hr]; congr 1; omega, hc⟩

/-- The draw primitive flips exactly the pixels the sprite covers, and collides exactly where one of them was on. -/
theorem draw_flips (d : Display) (x0 y0 : Byte) (bytes : List Byte) (hlen : bytes.length ≤ 32) :
    FlipsExactly (spriteCovers x0 y0 bytes) (d, false) (draw d x0 y0 bytes) := by
  refine (drawRows_flips x0 y0 bytes 0 hlen (d, false)).congr (fun r c => ?_)
  simp only [spriteCovers, spriteBit, wrapRow, wrapCol, Fin.ext_iff, Nat.zero_add]
  constructor
  · rintro ⟨k, b, col, h⟩
    exact ⟨k, col, b, h⟩
  · rintro ⟨k, col, b, h⟩
    exact ⟨k, b, col, h⟩

end Sys2Proof.Machine
end

