-- ==== Sys2Proof/Laws/Exec.lean ====
section
/-! SUPPORT. The instructions that can halt: what each answers where its check passes, and where it fails. Every other
instruction answers its next state by definition. -/

namespace Sys2Proof.Machine

theorem exec_call_of_room {nnn : Addr12} {s : State} (h : s.sp.val < 16) :
    exec (.call nnn) s = .next (State.jump
      { s with stack := s.stack.set s.sp.val (s.pc + 2), sp := ⟨s.sp.val + 1, Nat.succ_lt_succ h⟩ } (addrOf nnn)) := by
  simp only [exec, execCall, State.push?_some _ h]

theorem exec_call_of_full {nnn : Addr12} {s : State} (h : s.sp.val = 16) :
    exec (.call nnn) s = .next (s.raiseHalt .stackOverflow (encode (.call nnn))) := by
  simp only [exec, execCall, State.push?_none _ h]

theorem exec_ret_of_live {s : State} (h : s.sp.val ≠ 0) :
    exec .ret s = .next (State.jump { s with sp := ⟨s.sp.val - 1, by have := s.sp.isLt; omega⟩ }
      (s.stack[s.sp.val - 1]'(by have := s.sp.isLt; simp only [stackDepth]; omega))) := by
  simp only [exec, execRet, State.pop?_some h]

theorem exec_ret_of_empty {s : State} (h : s.sp.val = 0) :
    exec .ret s = .next (s.raiseHalt .stackUnderflow (encode .ret)) := by
  simp only [exec, execRet, State.pop?_none h]

theorem exec_ldBVx_of_inRange {x : RegIdx} {s : State} (h : inRange s.i.toNat 3 = true) :
    exec (.ldBVx x) s = .next (s.storeBytes (s.dataAddr 0) (bcdDigits (s.readV x))).advance := by
  simp only [exec, execLdBVx, State.withDataRange_of_inRange _ _ h]

theorem exec_ldBVx_of_outside {x : RegIdx} {s : State} (h : inRange s.i.toNat 3 = false) :
    exec (.ldBVx x) s = .next (s.raiseHalt .dataOutOfBounds (encode (.ldBVx x))) := by
  simp only [exec, execLdBVx, State.withDataRange_of_outside _ _ h]

theorem exec_ldMemVx_of_inRange {x : RegIdx} {s : State} (h : inRange s.i.toNat (x.val + 1) = true) :
    exec (.ldMemVx x) s = .next (s.storeBytes (s.dataAddr 0) (s.regRun x)).advance := by
  simp only [exec, execLdMemVx, State.withDataRange_of_inRange _ _ h]

theorem exec_ldMemVx_of_outside {x : RegIdx} {s : State} (h : inRange s.i.toNat (x.val + 1) = false) :
    exec (.ldMemVx x) s = .next (s.raiseHalt .dataOutOfBounds (encode (.ldMemVx x))) := by
  simp only [exec, execLdMemVx, State.withDataRange_of_outside _ _ h]

theorem exec_ldVxMem_of_inRange {x : RegIdx} {s : State} (h : inRange s.i.toNat (x.val + 1) = true) :
    exec (.ldVxMem x) s =
      .next (State.advance { s with v := loadRegs s.cfg s.mem (s.dataAddr 0) (x.val + 1) s.v }) := by
  simp only [exec, execLdVxMem, State.withDataRange_of_inRange _ _ h]

theorem exec_ldVxMem_of_outside {x : RegIdx} {s : State} (h : inRange s.i.toNat (x.val + 1) = false) :
    exec (.ldVxMem x) s = .next (s.raiseHalt .dataOutOfBounds (encode (.ldVxMem x))) := by
  simp only [exec, execLdVxMem, State.withDataRange_of_outside _ _ h]

theorem exec_drwVxVyN_of_inRange {x y : RegIdx} {n : Fin 16} {s : State} (h : inRange s.i.toNat n.val = true) :
    exec (.drwVxVyN x y n) s = .next (s.drawSprite x y n).advance := by
  simp only [exec, execDrwVxVyN, State.withDataRange_of_inRange _ _ h]

theorem exec_drwVxVyN_of_outside {x y : RegIdx} {n : Fin 16} {s : State} (h : inRange s.i.toNat n.val = false) :
    exec (.drwVxVyN x y n) s = .next (s.raiseHalt .dataOutOfBounds (encode (.drwVxVyN x y n))) := by
  simp only [exec, execDrwVxVyN, State.withDataRange_of_outside _ _ h]

end Sys2Proof.Machine
end

