-- ==== Sys2Proof/Laws/Keys.lean ====
section
/-! SUPPORT. The polling step of the key wait: which key it takes, and what it does without one. -/

namespace Sys2Proof.Machine

theorem mem_allKeys (k : KeyIdx) : k ∈ allKeys := by
  revert k
  decide

theorem allKeys_sorted : allKeys.Pairwise (· < ·) := by decide

/-- In a rising list, `find?` answers the least element that qualifies. -/
theorem find?_least {p : KeyIdx → Bool} {l : List KeyIdx} (hl : l.Pairwise (· < ·)) {k : KeyIdx}
    (h : l.find? p = some k) : p k = true ∧ ∀ j ∈ l, p j = true → k ≤ j := by
  induction l with
  | nil => cases h
  | cons a rest ih =>
    obtain ⟨hlt, hrest⟩ := List.pairwise_cons.mp hl
    rw [List.find?_cons] at h
    split at h
    · obtain rfl : a = k := by simpa using h
      refine ⟨‹_›, fun j hj _ => ?_⟩
      rcases List.mem_cons.mp hj with rfl | hj
      · exact le_refl _
      · exact le_of_lt (hlt j hj)
    · refine ⟨(ih hrest h).1, fun j hj hp => ?_⟩
      rcases List.mem_cons.mp hj with rfl | hj
      · simp_all
      · exact (ih hrest h).2 j hj hp

/-- The whole of what a poll can do: the least rising key completes the wait, or no key rose and the keys are
remembered. -/
theorem State.pollKey_cases (s : State) :
    (∃ k, s.rising k = true ∧ (∀ j, s.rising j = true → k ≤ j) ∧
      s.pollKey = { (s.writeV s.waitReg (BitVec.ofNat 8 k.val)).advance with runState := .running }) ∨
    ((∀ k, s.rising k = false) ∧ s.pollKey = { s with keyPrev := s.keys }) := by
  unfold State.pollKey
  split
  · next k h =>
    obtain ⟨hk, hmin⟩ := find?_least allKeys_sorted h
    exact .inl ⟨k, hk, fun j hj => hmin j (mem_allKeys j) hj, rfl⟩
  · next h =>
    refine .inr ⟨fun k => ?_, rfl⟩
    simpa using List.find?_eq_none.mp h k (mem_allKeys k)

end Sys2Proof.Machine
end

