-- ==== Sys2Proof/Laws/Step.lean ====
section
/-! SUPPORT. The placing of one instruction, field by field, and the step in each run state. -/

namespace Sys2Proof.Machine

/-! ## withFetchWord -/

@[simp] theorem State.withFetchWord_v (s : State) (n w : Nat) : (s.withFetchWord n w).v = s.v := rfl
@[simp] theorem State.withFetchWord_readV (s : State) (n w : Nat) (x : RegIdx) : (s.withFetchWord n w).readV x = s.readV x := rfl
@[simp] theorem State.withFetchWord_i (s : State) (n w : Nat) : (s.withFetchWord n w).i = s.i := rfl
@[simp] theorem State.withFetchWord_sp (s : State) (n w : Nat) : (s.withFetchWord n w).sp = s.sp := rfl
@[simp] theorem State.withFetchWord_stack (s : State) (n w : Nat) : (s.withFetchWord n w).stack = s.stack := rfl
@[simp] theorem State.withFetchWord_dt (s : State) (n w : Nat) : (s.withFetchWord n w).dt = s.dt := rfl
@[simp] theorem State.withFetchWord_st (s : State) (n w : Nat) : (s.withFetchWord n w).st = s.st := rfl
@[simp] theorem State.withFetchWord_disp (s : State) (n w : Nat) : (s.withFetchWord n w).disp = s.disp := rfl
@[simp] theorem State.withFetchWord_keys (s : State) (n w : Nat) : (s.withFetchWord n w).keys = s.keys := rfl
@[simp] theorem State.withFetchWord_needsRedraw (s : State) (n w : Nat) :
    (s.withFetchWord n w).needsRedraw = s.needsRedraw := rfl
@[simp] theorem State.withFetchWord_runState (s : State) (n w : Nat) : (s.withFetchWord n w).runState = .running := rfl
@[simp] theorem State.withFetchWord_waitReg (s : State) (n w : Nat) : (s.withFetchWord n w).waitReg = s.waitReg := rfl
@[simp] theorem State.withFetchWord_keyPrev (s : State) (n w : Nat) : (s.withFetchWord n w).keyPrev = s.keyPrev := rfl
@[simp] theorem State.withFetchWord_haltCause (s : State) (n w : Nat) : (s.withFetchWord n w).haltCause = s.haltCause := rfl
@[simp] theorem State.withFetchWord_haltAddr (s : State) (n w : Nat) : (s.withFetchWord n w).haltAddr = s.haltAddr := rfl
@[simp] theorem State.withFetchWord_haltWord (s : State) (n w : Nat) : (s.withFetchWord n w).haltWord = s.haltWord := rfl
@[simp] theorem State.withFetchWord_cfg (s : State) (n w : Nat) : (s.withFetchWord n w).cfg = s.cfg := rfl
@[simp] theorem State.withFetchWord_rndCount (s : State) (n w : Nat) : (s.withFetchWord n w).rndCount = s.rndCount := rfl

theorem State.withFetchWord_pc (s : State) (n w : Nat) :
    (s.withFetchWord n w).pc = if s.pc.toNat > 4094 then BitVec.ofNat 16 progBase else s.pc := rfl

/-- Its memory is the old one with the two bytes of the word stored at the new PC. -/
theorem State.withFetchWord_memByte (s : State) (n w a : Nat) :
    (s.withFetchWord n w).memByte a =
      (s.storeBytes (s.withFetchWord n w).pc.toNat (bytesOfWord (BitVec.ofNat 16 (w % 2 ^ n)))).memByte a := rfl

/-! ## The step, by run state -/

theorem step_of_halted {s : State} (h : s.runState = .halted) : step s = .next s := by
  simp only [step, h]

theorem step_of_awaitingKey {s : State} (h : s.runState = .awaitingKey) : step s = .next s.pollKey := by
  simp only [step, h]

theorem step_of_noFetch {s : State} (h : s.runState = .running) (hf : s.fetchWord? = none) :
    step s = .next (s.raiseHalt .fetchOutOfBounds 0) := by
  simp only [step, h, State.cycle, hf]

theorem step_of_unknown {s : State} {w : Word} {e : DecodeError} (h : s.runState = .running) (hf : s.fetchWord? = some w)
    (hd : decodeWord w = .error e) : step s = .next (s.raiseHalt .unknownOpcode w) := by
  simp only [step, h, State.cycle, hf, hd]

theorem step_of_decoded {s : State} {w : Word} {i : Instr} (h : s.runState = .running) (hf : s.fetchWord? = some w)
    (hd : decodeWord w = .ok i) : step s = exec i s := by
  simp only [step, h, State.cycle, hf, hd]

end Sys2Proof.Machine
end

