-- ==== Sys2Proof/Tests/Slice0.lean ====
section
/-! SUPPORT. Tests: the smoke test of WellFormed, words written out from 30_encoding.md R64, one-step vectors of
95_test_vectors.md (each test names its vector), and a witness for every statement that has hypotheses. -/

namespace Sys2Proof.Tests

open Sys2Proof Sys2Proof.Machine

/-! ## WellFormed -/

theorem test_wellFormed_refuses_sys_of_cls : (Instr.sys 0x0E0).wellFormed = false := by decide
theorem test_wellFormed_refuses_sys_of_ret : (Instr.sys 0x0EE).wellFormed = false := by decide
theorem test_wellFormed_accepts_sys : (Instr.sys 0x123).wellFormed = true := by decide

/-! ## Words, from the encodings of 30_encoding.md R64 and the operands R61 -/

theorem test_decode_control : decodeWord 0x0123 = .ok (.sys 0x123) ∧ decodeWord 0x00E0 = .ok .cls ∧
    decodeWord 0x00EE = .ok .ret ∧ decodeWord 0x1234 = .ok (.jp 0x234) ∧ decodeWord 0x2ABC = .ok (.call 0xABC) ∧
    decodeWord 0xB3FE = .ok (.jpV0Addr 0x3FE) := by decide

theorem test_decode_skips : decodeWord 0x332A = .ok (.seVxKk 3 0x2A) ∧ decodeWord 0x4D01 = .ok (.sneVxKk 13 0x01) ∧
    decodeWord 0x5120 = .ok (.seVxVy 1 2) ∧ decodeWord 0x9AB0 = .ok (.sneVxVy 10 11) ∧
    decodeWord 0xE29E = .ok (.skpVx 2) ∧ decodeWord 0xEFA1 = .ok (.sknpVx 15) := by decide

theorem test_decode_loads : decodeWord 0x6A7F = .ok (.ldVxKk 10 0x7F) ∧ decodeWord 0x7105 = .ok (.addVxKk 1 0x05) ∧
    decodeWord 0x8120 = .ok (.ldVxVy 1 2) ∧ decodeWord 0xC30F = .ok (.rndVxKk 3 0x0F) := by decide

theorem test_decode_alu : decodeWord 0x8121 = .ok (.orVxVy 1 2) ∧ decodeWord 0x8122 = .ok (.andVxVy 1 2) ∧
    decodeWord 0x8123 = .ok (.xorVxVy 1 2) ∧ decodeWord 0x8AB4 = .ok (.addVxVy 10 11) ∧
    decodeWord 0x8125 = .ok (.subVxVy 1 2) ∧ decodeWord 0x8FE6 = .ok (.shrVx 15 14) ∧
    decodeWord 0x8127 = .ok (.subnVxVy 1 2) ∧ decodeWord 0x812E = .ok (.shlVx 1 2) := by decide

theorem test_decode_memory : decodeWord 0xA2F0 = .ok (.ldIAddr 0x2F0) ∧ decodeWord 0xF21E = .ok (.addIVx 2) ∧
    decodeWord 0xF329 = .ok (.ldFVx 3) ∧ decodeWord 0xF433 = .ok (.ldBVx 4) ∧ decodeWord 0xF555 = .ok (.ldMemVx 5) ∧
    decodeWord 0xFE65 = .ok (.ldVxMem 14) := by decide

theorem test_decode_display_timers : decodeWord 0xD12A = .ok (.drwVxVyN 1 2 10) ∧ decodeWord 0xF107 = .ok (.ldVxDt 1) ∧
    decodeWord 0xF30A = .ok (.ldVxK 3) ∧ decodeWord 0xF215 = .ok (.ldDtVx 2) ∧ decodeWord 0xF018 = .ok (.ldStVx 0) := by
  decide

/-- Vectors DEC6 to DEC9: words that match no row. -/
theorem test_decode_unknown : [0x5121, 0x512F, 0x9121, 0x8128, 0x812A, 0x812D, 0x812F, 0xE19F, 0xE100, 0xF100, 0xF175,
    0xF130, 0xFFFF].all (fun w => decodeWord w == .error (.unknownOpcode w)) = true := by decide

theorem test_decode_truncated : decode [0x12] = .error .truncated ∧ decode [] = .error .truncated := by decide

/-- Vector DEC10: the high byte comes first. -/
theorem test_decode_bytes : decode [0x12, 0x34, 0x56] = .ok (.jp 0x234, [0x56]) := by decide

theorem test_decodeTableWord : decodeTableWord 16 0xD12A = some (.drwVxVyN 1 2 10) ∧
    decodeTableWord 16 0x5121 = none := by decide

/-! ## One step -/

/-- The reset state with registers written. -/
def withRegs (l : List (RegIdx × Byte)) : State := l.foldl (fun s p => s.writeV p.1 p.2) State.reset

/-- Whether one step on the word `w`, placed at PC, answers a next state with `p`. -/
def after (s : State) (w : Nat) (p : State → Bool) : Bool :=
  match step (s.withFetchWord 16 w) with
  | .next t => p t
  | .fault _ | .refused _ => false

/-- `V[x] = b` and `VF = f`, PC two further. -/
def regAndFlag (x : RegIdx) (b f : Byte) (t : State) : Bool := t.readV x == b && t.readV VF == f && t.pc == 0x202

/-- Halted at 0x200 with a cause and a word, PC unmoved. -/
def haltedAt (c : HaltCause) (w : Word) (t : State) : Bool :=
  t.runState == .halted && t.haltCause == c && t.haltAddr == 0x200 && t.haltWord == w && t.pc == 0x200

/-- The bytes at `a`, `a + 1`, ... -/
def holds (a : Nat) (bs : List Byte) (t : State) : Bool := t.loadBytes a bs.length == bs

/-- Exactly the pixels of the list are on: each of them, and no more in number. -/
def pixelsOn (t : State) (ps : List (Fin 32 × Fin 64)) : Bool :=
  ps.all (fun p => Display.pixel t.disp p.1 p.2) && (t.disp.toList.map (fun row => row.toList.countP id)).sum == ps.length

/-- Vector DEC5: SYS halts. -/
theorem test_sys : after State.reset 0x0123 (haltedAt .unknownOpcode 0x0123) = true := by decide
/-- Vector DEC7: an unknown word halts. -/
theorem test_unknown : after State.reset 0x8128 (haltedAt .unknownOpcode 0x8128) = true := by decide
/-- Vector CF1. -/
theorem test_jp : after State.reset 0x1234 (fun t => t.pc == 0x234) = true := by decide
/-- Vector CF6. -/
theorem test_call : after { State.reset with sp := 15 } 0x2300
    (fun t => t.pc == 0x300 && t.sp == 16 && t.stack[15] == 0x202) = true := by decide
/-- Vector CF7. -/
theorem test_call_overflow : after { State.reset with sp := 16 } 0x2300
    (fun t => haltedAt .stackOverflow 0x2300 t && t.sp == 16) = true := by decide
/-- Vector CF8. -/
theorem test_ret : after { State.reset with sp := 1, stack := State.reset.stack.set 0 0x2A4 } 0x00EE
    (fun t => t.pc == 0x2A4 && t.sp == 0 && t.stack[0] == 0x2A4) = true := by decide
/-- Vector CF9. -/
theorem test_ret_underflow : after State.reset 0x00EE (haltedAt .stackUnderflow 0x00EE) = true := by decide
/-- Vector CF11: not masked to 12 bits. -/
theorem test_jpV0 : after (withRegs [(0, 255)]) 0xBFFF (fun t => t.pc == 0x10FE) = true := by decide
/-- Vectors CF13 and CF14. -/
theorem test_seVxKk : after (withRegs [(3, 0x2A)]) 0x332A (fun t => t.pc == 0x204) = true ∧
    after (withRegs [(3, 0x2B)]) 0x332A (fun t => t.pc == 0x202) = true := by decide
/-- Vectors CF15 and CF16. -/
theorem test_sneVxKk : after (withRegs [(3, 0x2A)]) 0x432A (fun t => t.pc == 0x202) = true ∧
    after State.reset 0x432A (fun t => t.pc == 0x204) = true := by decide
/-- Vectors CF17 and CF18. -/
theorem test_seVxVy : after (withRegs [(1, 7), (2, 7)]) 0x5120 (fun t => t.pc == 0x204) = true ∧
    after (withRegs [(1, 7), (2, 8)]) 0x5120 (fun t => t.pc == 0x202) = true := by decide
/-- Vectors CF20 and CF21. -/
theorem test_sneVxVy : after (withRegs [(1, 7), (2, 8)]) 0x9120 (fun t => t.pc == 0x204) = true ∧
    after (withRegs [(1, 7), (2, 7)]) 0x9120 (fun t => t.pc == 0x202) = true := by decide

/-- Vector AL1. -/
theorem test_ldVxKk : after State.reset 0x6A7F (regAndFlag 10 0x7F 0) = true := by decide
/-- Vectors AL3 and AL5. -/
theorem test_addVxKk : after (withRegs [(1, 0xFE)]) 0x7105 (regAndFlag 1 0x03 0) = true ∧
    after (withRegs [(15, 1)]) 0x7FFF (regAndFlag 15 0 0) = true := by decide
/-- Vector AL6. -/
theorem test_ldVxVy : after (withRegs [(2, 9)]) 0x8120 (fun t => regAndFlag 1 9 0 t && t.readV 2 == 9) = true := by decide
/-- Vector AL7: VF keeps its 1. -/
theorem test_or : after (withRegs [(1, 0x0F), (2, 0xF0), (15, 1)]) 0x8121 (regAndFlag 1 0xFF 1) = true := by decide
/-- Vector AL8. -/
theorem test_and : after (withRegs [(1, 0x3C), (2, 0x0F)]) 0x8122 (regAndFlag 1 0x0C 0) = true := by decide
/-- Vectors AL9 and AL10. -/
theorem test_xor : after (withRegs [(1, 0xFF), (2, 0x0F)]) 0x8123 (regAndFlag 1 0xF0 0) = true ∧
    after (withRegs [(1, 0xA5)]) 0x8113 (regAndFlag 1 0 0) = true := by decide
/-- Vectors AL11 to AL14. -/
theorem test_add : after (withRegs [(1, 250), (2, 10)]) 0x8124 (regAndFlag 1 4 1) = true ∧
    after (withRegs [(1, 10), (2, 5), (15, 1)]) 0x8124 (regAndFlag 1 15 0) = true ∧
    after (withRegs [(1, 255)]) 0x8124 (regAndFlag 1 255 0) = true ∧
    after (withRegs [(1, 255), (2, 1)]) 0x8124 (regAndFlag 1 0 1) = true := by decide
/-- Vectors AL17 and AL18: VF as an operand and as the named destination. -/
theorem test_add_vf : after (withRegs [(1, 255), (15, 1)]) 0x81F4 (regAndFlag 1 0 1) = true ∧
    after (withRegs [(15, 200), (1, 100)]) 0x8F14 (regAndFlag 1 100 1) = true := by decide
/-- Vectors AL20 and AL22. -/
theorem test_sub : after (withRegs [(1, 5), (2, 10)]) 0x8125 (regAndFlag 1 251 0) = true ∧
    after (withRegs [(1, 7), (2, 7)]) 0x8125 (regAndFlag 1 0 1) = true := by decide
/-- Vector AL25. -/
theorem test_sub_vf : after (withRegs [(15, 5), (1, 10)]) 0x8F15 (regAndFlag 1 10 0) = true := by decide
/-- Vectors AL27 and AL28. -/
theorem test_subn : after (withRegs [(1, 10), (2, 5)]) 0x8127 (regAndFlag 1 251 0) = true ∧
    after (withRegs [(1, 5), (2, 10)]) 0x8127 (regAndFlag 1 5 1) = true := by decide
/-- Vector AL30. -/
theorem test_subn_vf : after (withRegs [(15, 5), (1, 10)]) 0x8F17 (regAndFlag 1 10 1) = true := by decide
/-- Vectors AL33, AL35 and AL36. -/
theorem test_shr : after (withRegs [(1, 0x80), (15, 1)]) 0x8106 (regAndFlag 1 0x40 0) = true ∧
    after (withRegs [(1, 4), (2, 0xFF)]) 0x8126 (fun t => regAndFlag 1 2 0 t && t.readV 2 == 0xFF) = true ∧
    after (withRegs [(15, 0xFF)]) 0x8FF6 (regAndFlag 15 0 0) = true := by decide
/-- Vectors AL37 and AL40. -/
theorem test_shl : after (withRegs [(1, 0xFF)]) 0x810E (regAndFlag 1 0xFE 1) = true ∧
    after (withRegs [(15, 0xFF)]) 0x8FFE (regAndFlag 15 2 2) = true := by decide

/-- The state with `SHIFT_SRC` = y. -/
def shiftY (s : State) : State := { s with cfg := { s.cfg with shiftSrc := .y } }

/-- Vectors AL42, AL44 and AL45. -/
theorem test_shr_y : after (shiftY (withRegs [(1, 0xFF), (2, 4)])) 0x8126 (regAndFlag 1 2 0) = true ∧
    after (shiftY (withRegs [(15, 3)])) 0x81F6 (regAndFlag 1 1 1) = true ∧
    after (shiftY (withRegs [(1, 3)])) 0x8F16 (regAndFlag 1 3 0) = true := by decide
/-- Vector AL43. -/
theorem test_shl_y : after (shiftY (withRegs [(2, 0x81)])) 0x812E (regAndFlag 1 2 1) = true := by decide
/-- Vectors AL46 and AL49, with the free byte given. -/
theorem test_rnd : (State.reset.random 0xA7 3 0x0F).readV 3 = 0x07 ∧ (State.reset.random 0xFF 15 0x0F).readV 15 = 0x0F := by
  decide

/-- Vector IM1. -/
theorem test_ldI : after State.reset 0xA2F0 (fun t => t.i == 0x2F0) = true := by decide
/-- Vectors IM4 and IM5. -/
theorem test_addI : after { withRegs [(0, 1)] with i := 0xFFF } 0xF01E (fun t => t.i == 0x1000 && t.readV VF == 0) = true ∧
    after { withRegs [(0, 1)] with i := 0xFFFF } 0xF01E (fun t => t.i == 0) = true := by decide
/-- Vectors IM8 and IM11: the whole byte counts. -/
theorem test_ldF : after (withRegs [(0, 0xA)]) 0xF029 (fun t => t.i == 0x082) = true ∧
    after (withRegs [(1, 0xFF)]) 0xF129 (fun t => t.i == 0x54B) = true := by decide
/-- Vector IM17. -/
theorem test_ldB : after { withRegs [(0, 128)] with i := 4093 } 0xF033
    (fun t => holds 4093 [1, 2, 8] t && t.i == 4093 && t.runState == .running) = true := by decide
/-- Vector IM18. -/
theorem test_ldB_outside : after { withRegs [(0, 128)] with i := 4094 } 0xF033
    (fun t => haltedAt .dataOutOfBounds 0xF033 t && holds 4094 [0, 0] t) = true := by decide
/-- Vector IM19. -/
theorem test_ldMemVx : after { withRegs [(0, 1), (1, 2), (2, 3), (3, 4)] with i := 0x300 } 0xF255
    (fun t => holds 0x300 [1, 2, 3, 0] t && t.i == 0x300) = true := by decide
/-- Vector IM28. -/
theorem test_ldMemVx_outside : after { State.reset with i := 0xFFFF } 0xF055 (haltedAt .dataOutOfBounds 0xF055) = true := by
  decide
/-- Vector IM26: glyph 0 of the default font. -/
theorem test_ldVxMem : after { withRegs [(5, 0xEE)] with i := 0x050 } 0xF465
    (fun t => t.readV 0 == 0xF0 && t.readV 1 == 0x90 && t.readV 4 == 0xF0 && t.readV 5 == 0xEE && t.i == 0x050) = true := by
  decide
/-- Vector IM27. -/
theorem test_ldVxMem_outside : after { State.reset with i := 0x1000 } 0xF065 (haltedAt .dataOutOfBounds 0xF065) = true := by
  decide

/-- Vector DP17. -/
theorem test_cls : after { State.reset.redraw (Display.setPixel State.reset.disp 3 4 true) with needsRedraw := false } 0x00E0
    (fun t => pixelsOn t [] && t.needsRedraw) = true := by decide
/-- Vector DP20: both axes wrap. -/
theorem test_drw : after (State.storeBytes { withRegs [(0, 62), (1, 31)] with i := 0x20E } 0x20E [0xC3, 0x81]) 0xD012
    (fun t => pixelsOn t [(0, 5), (0, 62), (31, 4), (31, 5), (31, 62), (31, 63)] && t.readV VF == 0 && t.needsRedraw) =
    true := by decide
/-- Vector DP6: a collision. -/
theorem test_drw_collision : after (State.storeBytes (State.redraw { State.reset with i := 0x300 }
      (Display.setPixel State.reset.disp 0 0 true)) 0x300 [0xC0]) 0xD011
    (fun t => pixelsOn t [(0, 1)] && t.readV VF == 1) = true := by decide

/-- Vector TK1. -/
theorem test_ldVxDt : after { State.reset with dt := 0x3C } 0xF107 (fun t => t.readV 1 == 0x3C && t.dt == 0x3C) = true := by
  decide
/-- Vector TK2. -/
theorem test_ldDtVx : after (withRegs [(1, 0xFF)]) 0xF115 (fun t => t.dt == 255 && t.st == 0) = true := by decide
/-- Vector TK3. -/
theorem test_ldStVx : after (withRegs [(1, 1)]) 0xF118 (fun t => t.st == 1 && t.sound && t.dt == 0) = true := by decide
/-- Vectors TK15 and TK12. -/
theorem test_skp : after ((withRegs [(1, 0x15)]).keySet 5 true) 0xE19E (fun t => t.pc == 0x204) = true ∧
    after (withRegs [(2, 0xA)]) 0xE29E (fun t => t.pc == 0x202) = true := by decide
/-- Vectors TK16 and TK14. -/
theorem test_sknp : after ((withRegs [(1, 0xF0)]).keySet 0 true) 0xE1A1 (fun t => t.pc == 0x202) = true ∧
    after (withRegs [(2, 0xA)]) 0xE2A1 (fun t => t.pc == 0x204) = true := by decide
/-- Sequence KW2, its first step: the key held from before is remembered and completes nothing. -/
theorem test_ldVxK : after (State.reset.keySet 5 true) 0xF30A
    (fun t => t.runState == .awaitingKey && t.waitReg == 3 && t.pc == 0x200 && t.keyPrev[5]) = true := by decide

/-! ## Polls, events, reset -/

/-- Sequence KW3: two keys pressed between polls. -/
theorem test_poll_lowest : (fun t => t.readV 3 == 4 && t.pc == 0x202 && t.runState == .running)
    (((State.reset.beginWait 3).keySet 9 true).keySet 4 true).pollKey = true := by decide
/-- Sequence KW5: released and pressed again between polls, no edge. -/
theorem test_poll_held : (((((State.reset.keySet 5 true).beginWait 3).keySet 5 false).keySet 5 true).pollKey).runState =
    .awaitingKey := by decide
/-- Vectors TK4 and TK5. -/
theorem test_tick : (fun t => t.dt == 0 && t.st == 4) (State.tick { State.reset with dt := 1, st := 5 }) = true ∧
    State.reset.tick = State.reset := by decide
/-- Vector TK8. -/
theorem test_tick_halted : (State.tick { State.reset with dt := 9, runState := .halted }).dt = 9 := by decide
/-- Vectors HR6 and HR7. -/
theorem test_stop : haltedAt .stopRequested 0 State.reset.stop = true ∧ State.reset.stop.stop = State.reset.stop := by decide
/-- Vector HR9. -/
theorem test_ack : (fun t => t.needsRedraw == false && t.runState == .halted)
    (State.redrawAck { State.reset.stop with needsRedraw := true }) = true := by decide
/-- Vector HR1: a step from reset. -/
theorem test_reset_step : (match step State.reset with
    | .next t => haltedAt .unknownOpcode 0 t
    | .fault _ | .refused _ => false) = true := by decide
/-- Vector HR5: a halted machine runs again after a reset. -/
theorem test_reset_after_halt : (fun t => t.runState == .running && t.haltCause == .none && t.haltAddr == 0 && t.pc == 0x200 &&
    holds 0x200 [0x12, 0x00, 0x00] t) (State.reset.stop.resetWith [0x12, 0x00]) = true := by decide
/-- Vector HR8, its second step. -/
theorem test_fetch_outside : (match step (State.reset.jump 0xFFF) with
    | .next t => t.haltCause == .fetchOutOfBounds && t.haltAddr == 0xFFF && t.haltWord == 0
    | .fault _ | .refused _ => false) = true := by decide

/-! ## Witnesses: for each statement with hypotheses, and for each of its clauses, a state and operands that meet all of
them together -/

/-- A running state with the word `w` at PC = 0x200. -/
def atWord (w : Nat) : State := State.reset.withFetchWord 16 w

/-- Waiting for a key for V3, with key 5 down since the last poll. -/
def waitingWithEdge : State := (State.reset.beginWait 3).keySet 5 true

theorem witness_DecodeOfEncode : (Instr.sys 0x0EF).wellFormed = true ∧ (Instr.drwVxVyN 15 15 15).wellFormed = true := by decide

theorem witness_EncodeOfDecode : decodeWord 0xDFFF = .ok (.drwVxVyN 15 15 15) ∧ decodeWord 0x0000 = .ok (.sys 0) := by decide

theorem witness_UnknownWords_known : ¬isUnknownWord 0x00E0 ∧ ¬isUnknownWord 0x1000 ∧ ¬isUnknownWord 0x5FF0 ∧
    ¬isUnknownWord 0x8007 ∧ ¬isUnknownWord 0x800E ∧ ¬isUnknownWord 0xE09E ∧ ¬isUnknownWord 0xFF65 := by
  refine ⟨?_, ?_, ?_, ?_, ?_, ?_, ?_⟩ <;> unfold isUnknownWord <;> decide

theorem witness_UnknownWords_unknown : (atWord 0xFFFF).runState = .running ∧ (atWord 0xFFFF).fetchWord? = some 0xFFFF ∧
    isUnknownWord 0xFFFF ∧ isUnknownWord 0x0FFF ∧ isUnknownWord 0x5001 ∧ isUnknownWord 0x8008 ∧ isUnknownWord 0x800F ∧
    isUnknownWord 0x900F ∧ isUnknownWord 0xE000 := by
  refine ⟨by decide, by decide, ?_, ?_, ?_, ?_, ?_, ?_, ?_⟩ <;> unfold isUnknownWord <;> decide

theorem witness_StepRuns_halted : State.reset.stop.runState = .halted := by decide
theorem witness_StepRuns_waiting : waitingWithEdge.runState = .awaitingKey := by decide
theorem witness_StepRuns_noFetch : (State.reset.jump 0xFFF).runState = .running ∧
    (State.reset.jump 0xFFF).fetchWord? = none := by decide
theorem witness_StepRuns_unknown : (atWord 0x5001).runState = .running ∧ (atWord 0x5001).fetchWord? = some 0x5001 ∧
    decodeWord 0x5001 = .error (.unknownOpcode 0x5001) := by decide
theorem witness_StepRuns_decoded : (atWord 0x6001).runState = .running ∧ (atWord 0x6001).fetchWord? = some 0x6001 ∧
    decodeWord 0x6001 = .ok (.ldVxKk 0 1) ∧ (Instr.ldVxKk 0 1).writesPc = false ∧
    ∃ t, exec (.ldVxKk 0 1) (atWord 0x6001) = .next t ∧ t.runState = .running :=
  ⟨by decide, by decide, by decide, by decide, _, rfl, by decide⟩
theorem witness_StepRuns_decodedHalt : (atWord 0x00EE).runState = .running ∧ (atWord 0x00EE).fetchWord? = some 0x00EE ∧
    decodeWord 0x00EE = .ok .ret ∧ ∃ t, exec .ret (atWord 0x00EE) = .next t ∧ t.runState = .halted :=
  ⟨by decide, by decide, by decide, _, rfl, by decide⟩

theorem witness_Fetch_low : (State.reset.jump 0).pc.toNat ≤ 4094 ∧ (State.reset.jump 4094).pc.toNat ≤ 4094 := by decide
theorem witness_Fetch_high : (State.reset.jump 4095).runState = .running ∧ (State.reset.jump 4095).pc.toNat > 4094 ∧
    (State.reset.jump 0xFFFF).pc.toNat > 4094 := by decide

/-- The largest target, and a skip from the last fetchable address. -/
theorem witness_ProgramCounter : (∃ t, (withRegs [(0, 255)]).pc.toNat ≤ 4094 ∧
      exec (.jpV0Addr 0xFFF) (withRegs [(0, 255)]) = .next t ∧ t.runState ≠ .halted) ∧
    ∃ t, (State.reset.jump 4094).pc.toNat ≤ 4094 ∧ exec (.seVxKk 0 0) (State.reset.jump 4094) = .next t ∧
      t.runState ≠ .halted :=
  ⟨⟨_, by decide, rfl, by decide⟩, _, by decide, rfl, by decide⟩

/-- A state with canonical memory, I = 4094 and PC = 4092, the last PC whose next word can be fetched: LD [I],V1 fills the
next word. With I = 0x203 and PC = 0x200, LD [I],V0 stores its low byte only. -/
theorem witness_StoreIsSeen_block : Memory.wf State.reset.cfg State.reset.mem ∧ ((State.reset.jump 4092).setI 4094).pc.toNat ≤ 4092 ∧
    ((State.reset.jump 4092).setI 4094).dataAddr (1 : RegIdx).val ≤ 4095 ∧
    ((State.reset.jump 4092).setI 4094).dataAddr (0 : RegIdx).val = ((State.reset.jump 4092).setI 4094).pc.toNat + 2 ∧
    ((State.reset.jump 4092).setI 4094).dataAddr (1 : RegIdx).val = ((State.reset.jump 4092).setI 4094).pc.toNat + 3 ∧
    (∀ j : RegIdx, j ≤ 0 → (State.reset.setI 0x203).dataAddr j.val ≠ State.reset.pc.toNat + 2) ∧
    ∀ j : RegIdx, j ≤ 1 → (State.reset.setI 0x201).dataAddr j.val ≠ State.reset.pc.toNat + 3 := by decide

/-- LD B,Vx with I = 0x200 stores its ones digit to the high byte of the next word and leaves the low one; with I = 0x203,
its hundreds digit to the low byte, and leaves the high one. -/
theorem witness_StoreIsSeen_bcd : Memory.wf State.reset.cfg State.reset.mem ∧ (State.reset.setI 0x203).dataAddr 2 ≤ 4095 ∧
    State.reset.pc.toNat ≤ 4092 ∧ (State.reset.setI 0x200).dataAddr (2 : Fin 3).val = State.reset.pc.toNat + 2 ∧
    (∀ j : Fin 3, (State.reset.setI 0x200).dataAddr j.val ≠ State.reset.pc.toNat + 3) ∧
    (State.reset.setI 0x203).dataAddr (0 : Fin 3).val = State.reset.pc.toNat + 3 ∧
    ∀ j : Fin 3, (State.reset.setI 0x203).dataAddr j.val ≠ State.reset.pc.toNat + 2 := by decide

/-- A running state, a halted one, and one with PC above 4094. -/
theorem witness_WithFetchWord : Memory.wf (atWord 0x1234).cfg (atWord 0x1234).mem ∧ (atWord 0x1234).pc.toNat ≤ 4094 ∧
    Memory.wf State.reset.stop.cfg State.reset.stop.mem ∧ State.reset.stop.runState = .halted ∧
    Memory.wf (State.reset.jump 4095).cfg (State.reset.jump 4095).mem ∧ ¬(State.reset.jump 4095).pc.toNat ≤ 4094 := by decide

theorem witness_Call_room : State.reset.sp.val < 16 ∧ (15 : Fin 17).val < 16 := by decide
theorem witness_Call_full : ({ State.reset with sp := 16 } : State).sp.val = 16 := by decide
theorem witness_Ret_live : ({ State.reset with sp := 1 } : State).sp.val = (0 : Fin 16).val + 1 ∧
    ({ State.reset with sp := 16 } : State).sp.val = (15 : Fin 16).val + 1 := by decide
theorem witness_Ret_empty : State.reset.sp.val = 0 := by decide

/-- CALL 0x300 at 0x200 and RET at 0x300. -/
def callRet : State := State.reset.storeBytes 0x200 [0x23, 0x00] |>.storeBytes 0x300 [0x00, 0xEE]

theorem witness_CallThenRet : callRet.runState = .running ∧ callRet.sp.val = (0 : Fin 16).val ∧
    callRet.fetchWord? = some 0x2300 ∧ decodeWord 0x2300 = .ok (.call 0x300) ∧
    (callRet.jump (addrOf 0x300)).fetchWord? = some 0x00EE ∧ decodeWord 0x00EE = .ok .ret := by decide

theorem witness_Shifts : (0 : Byte) = (if State.reset.cfg.shiftSrc = .x then State.reset.readV 1 else State.reset.readV 2) ∧
    (9 : Byte) = (if (shiftY (withRegs [(2, 9)])).cfg.shiftSrc = .x then (shiftY (withRegs [(2, 9)])).readV 1
      else (shiftY (withRegs [(2, 9)])).readV 2) := by decide

theorem witness_AddThenSub : (1 : RegIdx) ≠ 2 ∧ (1 : RegIdx) ≠ VF ∧ (2 : RegIdx) ≠ VF := by decide

theorem witness_LdB : Memory.wf State.reset.cfg State.reset.mem ∧ (State.reset.setI 4093).dataAddr 2 ≤ 4095 := by decide

theorem witness_BlockTransfers : Memory.wf State.reset.cfg State.reset.mem ∧ (State.reset.setI 4080).dataAddr 15 ≤ 4095 ∧
    (State.reset.setI 4095).dataAddr 0 ≤ 4095 := by decide

theorem witness_DataOutOfBounds :
    ((Instr.ldBVx 0).dataLen > 0 ∧ (State.reset.setI 4094).dataAddr ((Instr.ldBVx 0).dataLen - 1) > 4095) ∧
    ((Instr.ldMemVx 15).dataLen > 0 ∧ (State.reset.setI 4081).dataAddr ((Instr.ldMemVx 15).dataLen - 1) > 4095) ∧
    ((Instr.ldVxMem 0).dataLen > 0 ∧ (State.reset.setI 4096).dataAddr ((Instr.ldVxMem 0).dataLen - 1) > 4095) ∧
    ((Instr.drwVxVyN 0 0 15).dataLen > 0 ∧
      (State.reset.setI 4082).dataAddr ((Instr.drwVxVyN 0 0 15).dataLen - 1) > 4095) := by decide

/-- Each alternative at its boundary. -/
theorem witness_Drw : ((0 : Fin 16).val = 0 ∨ (State.reset.setI 0xFFFF).dataAddr 0 + (0 : Fin 16).val ≤ 4096) ∧
    ((15 : Fin 16).val = 0 ∨ (State.reset.setI 4081).dataAddr 0 + (15 : Fin 16).val ≤ 4096) := by decide

theorem witness_DrawingTwice : (0 : RegIdx) ≠ VF ∧ (14 : RegIdx) ≠ VF ∧
    ((15 : Fin 16).val = 0 ∨ (State.reset.setI 4081).dataAddr 0 + (15 : Fin 16).val ≤ 4096) ∧
    (∀ r c, Display.pixel State.reset.disp r c = false) ∧
    ∀ j, j < (2 : Fin 16).val → (State.reset.setI 0x300).memByte ((State.reset.setI 0x300).dataAddr j) = 0 :=
  ⟨by decide, by decide, by decide, fun r c => by simp [Display.pixel, State.reset, State.initial], by decide⟩

theorem witness_KeySkips : (5 : KeyIdx).val = ((withRegs [(1, 0x15)]).readV 1).toNat % 16 ∧
    (15 : KeyIdx).val = ((withRegs [(1, 0xFF)]).readV 1).toNat % 16 := by decide

theorem witness_KeyPoll_edge : waitingWithEdge.runState = .awaitingKey ∧ pressEdge waitingWithEdge 5 ∧
    ∀ j, pressEdge waitingWithEdge j → (5 : KeyIdx) ≤ j := by
  unfold pressEdge
  decide

theorem witness_KeyPoll_none : (State.reset.beginWait 3).runState = .awaitingKey ∧
    ∀ k, ¬pressEdge (State.reset.beginWait 3) k := by
  unfold pressEdge
  decide

theorem witness_OnlyEdge : waitingWithEdge.runState = .awaitingKey ∧
    (∃ t, applyEvent .step waitingWithEdge = .next t ∧ t.runState ≠ .awaitingKey) ∧
    (∃ t, applyEvent .stop waitingWithEdge = .next t ∧ t.runState ≠ .awaitingKey) ∧
    ∃ t, applyEvent (.reset []) waitingWithEdge = .next t ∧ t.runState ≠ .awaitingKey :=
  ⟨by decide, ⟨_, rfl, by decide⟩, ⟨_, rfl, by decide⟩, _, rfl, by decide⟩

theorem witness_Tick : State.reset.runState ≠ .halted ∧ waitingWithEdge.runState ≠ .halted ∧
    ({ State.reset with st := 1 } : State).st = 1 ∧ State.reset.stop.runState = .halted := by decide

theorem witness_TimersReachZero : waitingWithEdge.runState ≠ .halted := by decide

theorem witness_KeySet : State.reset.keys[(15 : KeyIdx).val] = false ∧ waitingWithEdge.keys[(5 : KeyIdx).val] = true := by decide

theorem witness_Stop : waitingWithEdge.runState ≠ .halted ∧ State.reset.stop.runState = .halted := by decide

/-- The largest ROM that fits, and the smallest that does not. -/
theorem witness_ResetAndRomSize_fits : (List.replicate 3584 (0 : Byte)).length ≤ 3584 ∧ ([] : List Byte).length ≤ 3584 :=
  ⟨le_of_eq List.length_replicate, by decide⟩
theorem witness_RomSize_tooLarge : (List.replicate 3585 (0 : Byte)).length > 3584 :=
  lt_of_lt_of_eq (by decide) List.length_replicate.symm

/-- LD B,V0 at I = 4094, CALL with 16 entries, RET with none, SYS, and LD B,V0 at I = 4093, which does not halt. -/
theorem witness_HaltExactly : haltCondition .dataOutOfBounds (.ldBVx 0) ((atWord 0xF033).setI 4094) ∧
    haltCondition .stackOverflow (.call 0x300) { atWord 0x2300 with sp := 16 } ∧
    haltCondition .stackUnderflow .ret (atWord 0x00EE) ∧ haltCondition .unknownOpcode (.sys 0x123) (atWord 0x0123) ∧
    (∀ c, ¬haltCondition c (.ldBVx 0) ((atWord 0xF033).setI 4093)) ∧
    ((atWord 0xF033).setI 4094).fetchWord? = some 0xF033 ∧ decodeWord 0xF033 = .ok (.ldBVx 0) ∧
    ((atWord 0xF033).setI 4093).fetchWord? = some 0xF033 ∧ ((atWord 0xF033).setI 4093).runState = .running ∧
    ({ atWord 0x2300 with sp := 16 } : State).fetchWord? = some 0x2300 ∧ decodeWord 0x2300 = .ok (.call 0x300) ∧
    (atWord 0x00EE).fetchWord? = some 0x00EE ∧ decodeWord 0x00EE = .ok .ret ∧
    (atWord 0x0123).fetchWord? = some 0x0123 ∧ decodeWord 0x0123 = .ok (.sys 0x123) := by
  refine ⟨by unfold haltCondition; decide, ⟨⟨_, rfl⟩, by decide⟩, ⟨rfl, by decide⟩, ⟨_, rfl⟩, ?_, by decide, by decide,
    by decide, by decide, by decide, by decide, by decide, by decide, by decide, by decide⟩
  intro c
  cases c
  case stackOverflow => rintro ⟨⟨_, h⟩, -⟩; cases h
  case stackUnderflow => rintro ⟨h, -⟩; cases h
  case unknownOpcode => rintro ⟨_, h⟩; cases h
  all_goals (unfold haltCondition; decide)

theorem witness_OnlyReset : State.reset.stop.runState = .halted ∧
    (∃ t, applyEvent (.keySet 5 true) State.reset.stop = .next t) ∧ ∀ rom, Event.keySet 5 true ≠ .reset rom :=
  ⟨by decide, ⟨_, rfl⟩, by simp⟩

theorem witness_InstructionsWriteOnly : (∃ t, exec (.addVxVy 1 2) State.reset = .next t) ∧
    (Instr.addVxVy 1 2).writesReg 3 = false ∧ (Instr.addVxVy 1 2).writesReg VF = true ∧ (Instr.ldVxMem 4).writesReg 5 = false ∧
    (Instr.ldVxMem 4).writesReg 4 = true ∧ (Instr.orVxVy 1 2).writesReg VF = false :=
  ⟨⟨_, rfl⟩, by decide, by decide, by decide, by decide, by decide⟩

theorem witness_EachPart : (∃ t, exec (.ldStVx 1) State.reset = .next t ∧ t.runState ≠ .halted) ∧
    Part.dt.writtenBy (.ldStVx 1) = false ∧ Part.runState.writtenBy (.ldStVx 1) = false ∧
    Part.st.writtenBy (.ldStVx 1) = true ∧ Part.pc.writtenBy (.ldVxK 1) = false :=
  ⟨⟨_, rfl, by decide⟩, by decide, by decide, by decide, by decide⟩

/-- F30A at 0x200, entered with a live stack entry: it meets every clause of the invariant, the waiting one included. -/
def waitingInCode : State := ({ atWord 0xF30A with sp := 1, stack := State.reset.stack.set 0 4096 } : State).beginWait 3

theorem witness_StepKeepsTheInvariant : waitingInCode.Inv ∧ ∃ t, step waitingInCode = .next t :=
  ⟨⟨by decide, by decide, by decide, fun _ => ⟨0xF30A, by decide, by decide⟩, by decide, by decide, by decide⟩, _, rfl⟩

theorem witness_EventSequencesKeepTheInvariant :
    ∃ t, runEvents [.keySet 5 true, .tick, .step, .redrawAck, .stop, .step, .reset [0x12, 0x00]] waitingInCode = .next t :=
  ⟨_, rfl⟩

end Sys2Proof.Tests
end

section
/-! SUPPORT. The parts of the state that its invariant (10_state.md R30) does not read, and what it takes of each shared
operation to keep it. -/

namespace Sys2Proof.Machine

/-- `t` is `s` up to the parts the invariant does not read: the registers, I, the timers, the display, the keys,
`needs_redraw`, `key_prev` and the count of free bytes. -/
def State.UnreadChange (s t : State) : Prop :=
  t = { s with v := t.v, i := t.i, dt := t.dt, st := t.st, disp := t.disp, keys := t.keys, needsRedraw := t.needsRedraw,
               keyPrev := t.keyPrev, rndCount := t.rndCount }

theorem State.Inv.congr {s t : State} (h : s.Inv) (e : s.UnreadChange t) : t.Inv := by
  rw [e]
  exact ⟨h.memory, h.pc, h.liveStack, h.waiting, h.cause, h.snapshot, h.noRecord⟩

theorem State.Inv.raiseHalt {s : State} (h : s.Inv) {c : HaltCause} (hc : c ≠ .none) (w : Word) :
    (s.raiseHalt c w).Inv where
  memory := h.memory
  pc := h.pc
  liveStack := h.liveStack
  waiting := by simp
  cause := by simp [hc]
  snapshot := by simp
  noRecord := by simp

/-- Nothing is recorded in the halt registers. -/
def State.NoHaltRecord (s : State) : Prop := s.haltCause = .none ∧ s.haltAddr = 0 ∧ s.haltWord = 0

theorem State.Inv.noHaltRecord {s : State} (h : s.Inv) (hr : s.runState ≠ .halted) : s.NoHaltRecord :=
  ⟨by simpa [hr] using h.cause, h.noRecord hr⟩

/-- In Running the invariant speaks of memory, PC, the stack and the halt registers only. -/
theorem State.inv_of_running {s : State} (hr : s.runState = .running) (hmem : Memory.wf s.cfg s.mem)
    (hpc : s.pc.toNat ≤ 4350)
    (hstack : ∀ j : Fin 16, j.val < s.sp.val → 2 ≤ s.stack[j.val].toNat ∧ s.stack[j.val].toNat ≤ 4096)
    (hrec : s.NoHaltRecord) : s.Inv where
  memory := hmem
  pc := hpc
  liveStack := hstack
  waiting := by simp [hr]
  cause := by simp [hr, hrec.1]
  snapshot := by simp [hr]
  noRecord := fun _ => hrec.2

/-- Where an instruction starts: the invariant, in Running, with a word to fetch (20_memory.md R46). -/
structure State.Executing (s : State) : Prop where
  inv : s.Inv
  running : s.runState = .running
  fetchable : s.pc.toNat ≤ 4094

namespace State.Executing

variable {s : State}

theorem noHaltRecord (hs : s.Executing) : s.NoHaltRecord := hs.inv.noHaltRecord (by simp [hs.running])

theorem congr (hs : s.Executing) {t : State} (e : s.UnreadChange t) : t.Executing := by
  have hinv := hs.inv.congr e
  rw [e] at hinv ⊢
  exact ⟨hinv, hs.running, hs.fetchable⟩

theorem storeBytes (hs : s.Executing) (a : Nat) (bs : List Byte) : (s.storeBytes a bs).Executing where
  inv := State.inv_of_running hs.running (Memory.wf_writeBytes hs.inv.memory a bs) hs.inv.pc hs.inv.liveStack
    hs.noHaltRecord
  running := hs.running
  fetchable := hs.fetchable

theorem jump (hs : s.Executing) {target : Word} (ht : target.toNat ≤ 4350) : (s.jump target).Inv :=
  State.inv_of_running hs.running hs.inv.memory ht hs.inv.liveStack hs.noHaltRecord

/-- PC + 2 and PC + 4 do not wrap from a fetchable PC (log 8). -/
theorem pc_add_toNat (hs : s.Executing) :
    (s.pc + 2).toNat = s.pc.toNat + 2 ∧ (s.pc + 4).toNat = s.pc.toNat + 4 := by
  have := hs.fetchable
  constructor <;> bv_omega

theorem skipIf (hs : s.Executing) (c : Bool) : (s.skipIf c).Inv := by
  have hpc := hs.fetchable
  obtain ⟨htwo, hfour⟩ := hs.pc_add_toNat
  cases c with
  | false => exact hs.jump (target := s.pc + 2) (by omega)
  | true => exact hs.jump (target := s.pc + 4) (by omega)

theorem advance (hs : s.Executing) : s.advance.Inv := hs.skipIf false

/-- CALL pushes PC + 2, which is in 2 to 4096. -/
theorem push (hs : s.Executing) (hsp : s.sp.val < 16) :
    State.Executing { s with stack := s.stack.set s.sp.val (s.pc + 2), sp := ⟨s.sp.val + 1, Nat.succ_lt_succ hsp⟩ } where
  inv := by
    refine State.inv_of_running hs.running hs.inv.memory hs.inv.pc (fun j hj => ?_) hs.noHaltRecord
    have hpc := hs.fetchable
    have hret := hs.pc_add_toNat.1
    simp only [Vector.getElem_set] at hj ⊢
    split
    · omega
    · exact hs.inv.liveStack j (by omega)
  running := hs.running
  fetchable := hs.fetchable

theorem pop (hs : s.Executing) {n : Fin 17} (hn : n.val ≤ s.sp.val) : State.Executing { s with sp := n } where
  inv := State.inv_of_running hs.running hs.inv.memory hs.inv.pc
    (fun j hj => hs.inv.liveStack j (Nat.lt_of_lt_of_le hj hn)) hs.noHaltRecord
  running := hs.running
  fetchable := hs.fetchable

/-- LD Vx,K waits at its own word. -/
theorem beginWait (hs : s.Executing) {w : Word} {x : RegIdx} (hf : s.fetchWord? = some w)
    (hd : decodeWord w = .ok (.ldVxK x)) : (s.beginWait x).Inv where
  memory := hs.inv.memory
  pc := hs.inv.pc
  liveStack := hs.inv.liveStack
  waiting := fun _ => ⟨w, hf, hd⟩
  cause := by simp [hs.noHaltRecord.1]
  snapshot := by simp
  noRecord := fun _ => hs.noHaltRecord.2

end State.Executing

/-- Every field at its reset value: the program counter is 0x200, and nothing is listed, live, awaited or recorded. -/
theorem State.executing_initial (cfg : Config) : (State.initial cfg).Executing where
  inv := State.inv_of_running rfl (Memory.wf_nil cfg) (by simp [State.initial, progBase])
    (fun j hj => absurd hj (Nat.not_lt_zero j.val)) ⟨rfl, rfl, rfl⟩
  running := rfl
  fetchable := by simp [State.initial, progBase]

end Sys2Proof.Machine
end

section
/-! SUPPORT. Every instruction, step and event answers a next state that meets the invariant (10_state.md R30). -/

namespace Sys2Proof.Machine

theorem addrOf_toNat_lt (nnn : Addr12) : (addrOf nnn).toNat < 4096 := by
  have := nnn.isLt
  simp only [addrOf, BitVec.toNat_setWidth]
  omega

theorem jumpV0Target_toNat_le (nnn : Addr12) (v0 : Byte) : (jumpV0Target nnn v0).toNat ≤ 4350 := by
  have := nnn.isLt
  have := v0.isLt
  simp only [jumpV0Target, BitVec.toNat_ofNat]
  omega

/-- The result is a next state that meets the invariant. -/
def AnswersInv (r : Result) : Prop := ∃ t, r = .next t ∧ t.Inv

theorem AnswersInv.inv {r : Result} (h : AnswersInv r) {t : State} (ht : r = .next t) : t.Inv := by
  obtain ⟨u, hu, hinv⟩ := h
  rw [hu] at ht
  cases ht
  exact hinv

theorem State.Inv.answers {s : State} (h : s.Inv) : AnswersInv (.next s) := ⟨s, rfl, h⟩

namespace State.Executing

variable {s : State}

/-- A sequential instruction that changes only what the invariant does not read. -/
theorem answers_advance (hs : s.Executing) {t : State} (e : s.UnreadChange t) : AnswersInv (.next t.advance) :=
  (hs.congr e).advance.answers

theorem answers_withDataRange (hs : s.Executing) (len : Nat) (w : Word) {f : State → State} (hf : (f s).Executing) :
    AnswersInv (s.withDataRange len w f) := by
  obtain ⟨-, h⟩ | ⟨-, h⟩ := s.withDataRange_cases len w f
  · exact h ▸ hf.advance.answers
  · exact h ▸ (hs.inv.raiseHalt (by decide) w).answers

theorem answers_call (hs : s.Executing) (nnn : Addr12) : AnswersInv (exec (.call nnn) s) := by
  by_cases hsp : s.sp.val < 16
  · rw [exec_call_of_room hsp]
    exact ((hs.push hsp).jump (by have := addrOf_toNat_lt nnn; omega)).answers
  · rw [exec_call_of_full (by omega)]
    exact (hs.inv.raiseHalt (by decide) _).answers

/-- RET goes to a live entry, so to an address in 2 to 4096. -/
theorem answers_ret (hs : s.Executing) : AnswersInv (exec .ret s) := by
  by_cases hsp : s.sp.val = 0
  · rw [exec_ret_of_empty hsp]
    exact (hs.inv.raiseHalt (by decide) _).answers
  · have htop := hs.inv.liveStack ⟨s.sp.val - 1, by omega⟩ (by simp only; omega)
    rw [exec_ret_of_live hsp]
    exact ((hs.pop (by simp only; omega)).jump (by simp only at htop; omega)).answers

end State.Executing

/-- One instruction, by the classes of 40_control_flow.md R81: halting, transfer, skip, the key wait, and sequential, with
or without a data access. -/
theorem exec_answersInv {s : State} (hs : s.Executing) {w : Word} {i : Instr} (hf : s.fetchWord? = some w)
    (hd : decodeWord w = .ok i) : AnswersInv (exec i s) := by
  cases i with
  | sys nnn => exact (hs.inv.raiseHalt (by decide) _).answers
  | ret => exact hs.answers_ret
  | call nnn => exact hs.answers_call nnn
  | jp nnn => exact (hs.jump (by have := addrOf_toNat_lt nnn; omega)).answers
  | jpV0Addr nnn => exact (hs.jump (jumpV0Target_toNat_le nnn _)).answers
  | seVxKk | sneVxKk | seVxVy | sneVxVy | skpVx | sknpVx => exact (hs.skipIf _).answers
  | ldVxK x => exact (hs.beginWait hf hd).answers
  | ldBVx | ldMemVx =>
    simp only [exec, execLdBVx, execLdMemVx]
    exact hs.answers_withDataRange _ _ (hs.storeBytes _ _)
  | ldVxMem | drwVxVyN =>
    simp only [exec, execLdVxMem, execDrwVxVyN]
    exact hs.answers_withDataRange _ _ (hs.congr rfl)
  | cls | ldVxKk | addVxKk | ldVxVy | orVxVy | andVxVy | xorVxVy | addVxVy | subVxVy | shrVx | subnVxVy | shlVx | ldIAddr
  | rndVxKk | ldVxDt | ldDtVx | ldStVx | addIVx | ldFVx => exact hs.answers_advance rfl

/-- A poll leaves the wait with PC past its word, or goes on waiting there. -/
theorem State.Inv.pollKey {s : State} (h : s.Inv) (hw : s.runState = .awaitingKey) : s.pollKey.Inv := by
  obtain ⟨k, -, -, hp⟩ | ⟨-, hp⟩ := s.pollKey_cases
  · obtain ⟨w, hf, -⟩ := h.waiting hw
    have hrun : State.Executing { s with runState := .running } :=
      ⟨State.inv_of_running rfl h.memory h.pc h.liveStack (h.noHaltRecord (by simp [hw])), rfl,
        State.pc_le_of_fetch hf⟩
    rw [hp]
    exact (hrun.congr (t := { s.writeV s.waitReg (BitVec.ofNat 8 k.val) with runState := .running }) rfl).advance
  · rw [hp]
    exact h.congr rfl

/-- A step, along the cases of 40_control_flow.md R80. -/
theorem step_answersInv {s : State} (h : s.Inv) : AnswersInv (step s) := by
  cases hr : s.runState with
  | halted => exact step_of_halted hr ▸ h.answers
  | awaitingKey => exact step_of_awaitingKey hr ▸ (h.pollKey hr).answers
  | running =>
    cases hf : s.fetchWord? with
    | none => exact step_of_noFetch hr hf ▸ (h.raiseHalt (by decide) 0).answers
    | some w =>
      cases hd : decodeWord w with
      | error e => exact step_of_unknown hr hf hd ▸ (h.raiseHalt (by decide) w).answers
      | ok i => exact step_of_decoded hr hf hd ▸ exec_answersInv ⟨h, hr, State.pc_le_of_fetch hf⟩ hf hd

/-- Reset establishes the invariant, whatever the state before (70_reset_and_hazards.md R200, R201). -/
theorem State.inv_resetWith (s : State) (rom : List Byte) : (s.resetWith rom).Inv := by
  have h0 : State.Executing { State.initial s.cfg with rndCount := s.rndCount } :=
    (State.executing_initial s.cfg).congr rfl
  by_cases hfit : rom.length ≤ romMax
  · rw [s.resetWith_of_fits hfit]
    exact (h0.storeBytes progBase rom).inv
  · rw [s.resetWith_of_tooLarge (Nat.lt_of_not_le hfit)]
    exact h0.inv.raiseHalt (by decide) 0

theorem State.Inv.tick {s : State} (h : s.Inv) : s.tick.Inv := by
  unfold State.tick
  split
  · exact h
  · exact h.congr rfl
  · exact h.congr rfl

theorem State.Inv.stop {s : State} (h : s.Inv) : s.stop.Inv := by
  unfold State.stop
  split
  · exact h
  · exact h.raiseHalt (by decide) 0
  · exact h.raiseHalt (by decide) 0

theorem applyEvent_answersInv (e : Event) {s : State} (h : s.Inv) : AnswersInv (applyEvent e s) := by
  cases e with
  | reset rom => exact (s.inv_resetWith rom).answers
  | step => exact step_answersInv h
  | tick => exact h.tick.answers
  | keySet k b => exact (h.congr (t := s.keySet k b) rfl).answers
  | redrawAck => exact (h.congr (t := s.redrawAck) rfl).answers
  | stop => exact h.stop.answers

theorem runEvents_answersInv (es : List Event) {s : State} (h : s.Inv) : AnswersInv (runEvents es s) := by
  induction es generalizing s with
  | nil => exact h.answers
  | cons e rest ih =>
    obtain ⟨u, hu, hinv⟩ := applyEvent_answersInv e h
    simpa only [runEvents, hu] using ih hinv

/-- Settles O54: nothing is listed, live, awaited or recorded at reset. -/
theorem resetStateMeetsTheInvariant : Obligations.ResetStateMeetsTheInvariant :=
  (State.executing_initial defaultConfig).inv

/-- Settles O55: each case of the execution cycle, and in it each class of instruction, answers a state that meets the
invariant. -/
theorem stepKeepsTheInvariant : Obligations.StepKeepsTheInvariant :=
  fun _ _ h ht => (step_answersInv h).inv ht

/-- Settles O56, by induction on the sequence of events. -/
theorem eventSequencesKeepTheInvariant : Obligations.EventSequencesKeepTheInvariant :=
  fun es _ _ h ht => (runEvents_answersInv es h).inv ht

end Sys2Proof.Machine
end

section
/-! SUPPORT. No step reads ST or `needs_redraw` (10_state.md R17, R22): a step commutes with changing them, up to the values
they hold afterwards. -/

namespace Sys2Proof.Machine

/-- `s` with another sound timer and redraw signal. -/
def State.withSignals (s : State) (b : Byte) (r : Bool) : State := { s with st := b, needsRedraw := r }

/-- Both results are next states, and they differ in ST and `needs_redraw` only. -/
def SameButSignals (p q : Result) : Prop := ∃ t b r, p = .next t ∧ q = .next (t.withSignals b r)

theorem SameButSignals.next (t : State) (b : Byte) (r : Bool) : SameButSignals (.next t) (.next (t.withSignals b r)) :=
  ⟨t, b, r, rfl, rfl⟩

theorem withDataRange_sameButSignals (s : State) (b : Byte) (r : Bool) (len : Nat) (w : Word) {f : State → State}
    (hf : SameButSignals (.next (f s).advance) (.next (f (s.withSignals b r)).advance)) :
    SameButSignals (s.withDataRange len w f) ((s.withSignals b r).withDataRange len w f) := by
  cases h : inRange s.i.toNat len with
  | true =>
    rwa [s.withDataRange_of_inRange w f h, (s.withSignals b r).withDataRange_of_inRange w f h]
  | false =>
    rw [s.withDataRange_of_outside w f h, (s.withSignals b r).withDataRange_of_outside w f h]
    exact .next _ b r

theorem call_sameButSignals (s : State) (b : Byte) (r : Bool) (nnn : Addr12) :
    SameButSignals (exec (.call nnn) s) (exec (.call nnn) (s.withSignals b r)) := by
  by_cases hsp : s.sp.val < 16
  · rw [exec_call_of_room hsp, exec_call_of_room (s := s.withSignals b r) hsp]
    exact .next _ b r
  · have hfull : s.sp.val = 16 := by omega
    rw [exec_call_of_full hfull, exec_call_of_full (s := s.withSignals b r) hfull]
    exact .next _ b r

theorem ret_sameButSignals (s : State) (b : Byte) (r : Bool) :
    SameButSignals (exec .ret s) (exec .ret (s.withSignals b r)) := by
  by_cases hsp : s.sp.val = 0
  · rw [exec_ret_of_empty hsp, exec_ret_of_empty (s := s.withSignals b r) hsp]
    exact .next _ b r
  · rw [exec_ret_of_live hsp, exec_ret_of_live (s := s.withSignals b r) hsp]
    exact .next _ b r

/-- Only LD ST,Vx writes ST, from Vx, and only CLS and DRW write `needs_redraw`, to 1; every other instruction carries both
along. -/
theorem exec_sameButSignals (i : Instr) (s : State) (b : Byte) (r : Bool) :
    SameButSignals (exec i s) (exec i (s.withSignals b r)) := by
  cases i with
  | ldStVx x => exact .next _ (s.readV x) r
  | cls => exact .next _ b true
  | drwVxVyN =>
    simp only [exec, execDrwVxVyN]
    exact withDataRange_sameButSignals s b r _ _ (.next _ b true)
  | ldBVx | ldMemVx | ldVxMem =>
    simp only [exec, execLdBVx, execLdMemVx, execLdVxMem]
    exact withDataRange_sameButSignals s b r _ _ (.next _ b r)
  | call nnn => exact call_sameButSignals s b r nnn
  | ret => exact ret_sameButSignals s b r
  | sys | jp | jpV0Addr | seVxKk | sneVxKk | seVxVy | sneVxVy | skpVx | sknpVx | ldVxKk | addVxKk | ldVxVy | orVxVy | andVxVy
  | xorVxVy | addVxVy | subVxVy | shrVx | subnVxVy | shlVx | ldIAddr | rndVxKk | ldVxDt | ldVxK | ldDtVx | addIVx | ldFVx =>
    exact .next _ b r

theorem pollKey_withSignals (s : State) (b : Byte) (r : Bool) :
    (s.withSignals b r).pollKey = s.pollKey.withSignals b r := by
  have hrising : (s.withSignals b r).rising = s.rising := rfl
  simp only [State.pollKey, hrising]
  cases allKeys.find? (fun k => s.rising k) with
  | some k => rfl
  | none => rfl

theorem step_sameButSignals (s : State) (b : Byte) (r : Bool) : SameButSignals (step s) (step (s.withSignals b r)) := by
  cases hr : s.runState with
  | halted =>
    rw [step_of_halted hr, step_of_halted (s := s.withSignals b r) hr]
    exact .next s b r
  | awaitingKey =>
    rw [step_of_awaitingKey hr, step_of_awaitingKey (s := s.withSignals b r) hr, pollKey_withSignals]
    exact .next s.pollKey b r
  | running =>
    cases hf : s.fetchWord? with
    | none =>
      rw [step_of_noFetch hr hf, step_of_noFetch (s := s.withSignals b r) hr hf]
      exact .next _ b r
    | some w =>
      cases hd : decodeWord w with
      | error e =>
        rw [step_of_unknown hr hf hd, step_of_unknown (s := s.withSignals b r) hr hf hd]
        exact .next _ b r
      | ok i =>
        rw [step_of_decoded hr hf hd, step_of_decoded (s := s.withSignals b r) hr hf hd]
        exact exec_sameButSignals i s b r

theorem keptExcept_withSignals (s : State) (b : Byte) (r : Bool) :
    keptExcept [.st, .needsRedraw] s (s.withSignals b r) := by
  intro p hp
  cases p with
  | st | needsRedraw => simp at hp
  | callStack | waitLatches => exact ⟨rfl, rfl⟩
  | haltRecord => exact ⟨rfl, rfl, rfl⟩
  | memory => exact fun _ => rfl
  | i | pc | dt | disp | keys | runState | cfg | rndCount => rfl

/-- Settles O53: a step commutes with another ST and `needs_redraw`. -/
theorem noStepReadsTheSoundTimerOrRedrawSignal : Obligations.NoStepReadsTheSoundTimerOrRedrawSignal := by
  intro s b r
  obtain ⟨t, b', r', ht, hu⟩ := step_sameButSignals s b r
  exact ⟨t, t.withSignals b' r', ht, hu, fun _ _ => rfl, keptExcept_withSignals t b' r'⟩

end Sys2Proof.Machine
end

section
/-! SUPPORT. Halting leaves everything but the run state and the halt record (60_exceptions.md R170, R173), and the fetch is
big-endian and bounded (20_memory.md R46). -/

namespace Sys2Proof.Machine

theorem haltedFrom_raiseHalt (s : State) (c : HaltCause) (w : Word) : haltedFrom c w s (s.raiseHalt c w) := by
  refine ⟨rfl, rfl, rfl, rfl, fun _ _ => rfl, fun p hp => ?_⟩
  cases p with
  | runState | haltRecord => simp at hp
  | callStack | waitLatches => exact ⟨rfl, rfl⟩
  | memory => exact fun _ => rfl
  | i | pc | dt | st | disp | keys | needsRedraw | cfg | rndCount => rfl

/-- Settles O7: the fetched word is the two bytes at PC, the first the more significant, and without a fetch the step
halts. -/
theorem fetchIsBigEndianAndBounded : Obligations.FetchIsBigEndianAndBounded :=
  ⟨fun _ hpc => ⟨_, State.fetchWord?_of_le hpc, Laws.wordOfBytes_toNat _ _⟩,
    fun s hr hpc => ⟨_, step_of_noFetch hr (State.fetchWord?_of_gt hpc), haltedFrom_raiseHalt s _ _⟩⟩

end Sys2Proof.Machine
end

section
/-! SUPPORT. What memory holds after LD [I],Vx and LD B,Vx (42_index_memory.md R126, R128), and the word that the next fetch
then reads (20_memory.md R50). -/

namespace Sys2Proof.Machine

/-! ## The bytes of a store at I -/

theorem State.inRange_of_dataAddr_le {s : State} {n : Nat} (h : s.dataAddr n ≤ 4095) :
    inRange s.i.toNat (n + 1) = true := by
  simp only [State.dataAddr] at h
  exact (inRange_iff _ _).mpr (.inr (by simp only [memSize]; omega))

/-- Data byte `j` of a store reads as byte `j` of what was stored. -/
theorem State.memByte_storeBytes_at {s : State} (hwf : Memory.wf s.cfg s.mem) {bs : List Byte} {n j : Nat}
    (hlen : bs.length = n + 1) (hfit : s.dataAddr n ≤ 4095) (hj : j < bs.length) :
    (s.storeBytes (s.dataAddr 0) bs).memByte (s.dataAddr j) = bs[j] := by
  simp only [State.dataAddr] at hfit ⊢
  rw [State.memByte_storeBytes hwf _ _ (by simp only [memSize]; omega), dif_pos (by omega)]
  simp

/-- An address that no data byte of a store has reads as it did. -/
theorem State.memByte_storeBytes_off {s : State} (hwf : Memory.wf s.cfg s.mem) {bs : List Byte} {n a : Nat}
    (hlen : bs.length = n + 1) (hfit : s.dataAddr n ≤ 4095) (hoff : ∀ j, j < bs.length → s.dataAddr j ≠ a) :
    (s.storeBytes (s.dataAddr 0) bs).memByte a = s.memByte a := by
  simp only [State.dataAddr] at hfit hoff ⊢
  rw [State.memByte_storeBytes hwf _ _ (by simp only [memSize]; omega), dif_neg]
  intro hin
  exact hoff (a - s.i.toNat) (by omega) (by omega)

/-! ## The register run of LD [I],Vx -/

theorem State.memByte_store_regRun {s : State} (hwf : Memory.wf s.cfg s.mem) {x j : RegIdx} {a : Nat}
    (hfit : s.dataAddr x.val ≤ 4095) (hj : j ≤ x) (ha : s.dataAddr j.val = a) :
    (s.storeBytes (s.dataAddr 0) (s.regRun x)).memByte a = s.readV j := by
  have hlt : j.val < (s.regRun x).length := by
    rw [State.length_regRun]
    exact Nat.lt_succ_of_le hj
  rw [← ha, State.memByte_storeBytes_at hwf (s.length_regRun x) hfit hlt, State.getElem_regRun]

theorem State.memByte_store_regRun_off {s : State} (hwf : Memory.wf s.cfg s.mem) {x : RegIdx} {a : Nat}
    (hfit : s.dataAddr x.val ≤ 4095) (hoff : ∀ j : RegIdx, j ≤ x → s.dataAddr j.val ≠ a) :
    (s.storeBytes (s.dataAddr 0) (s.regRun x)).memByte a = s.memByte a := by
  refine State.memByte_storeBytes_off hwf (s.length_regRun x) hfit (fun j hj => ?_)
  rw [State.length_regRun] at hj
  exact hoff ⟨j, by omega⟩ (Nat.le_of_lt_succ hj)

/-! ## The digits of LD B,Vx -/

theorem length_bcdDigits (b : Byte) : (bcdDigits b).length = 2 + 1 := rfl

theorem getElem_bcdDigits (b : Byte) (j : Fin 3) (h : j.val < (bcdDigits b).length) :
    (bcdDigits b)[j.val].toNat = b.toNat / 10 ^ (2 - j.val) % 10 := by
  have := b.isLt
  fin_cases j <;> simp [bcdDigits] <;> omega

theorem State.memByte_store_bcdDigits {s : State} (hwf : Memory.wf s.cfg s.mem) (b : Byte) {j : Fin 3} {a : Nat}
    (hfit : s.dataAddr 2 ≤ 4095) (ha : s.dataAddr j.val = a) :
    ((s.storeBytes (s.dataAddr 0) (bcdDigits b)).memByte a).toNat = b.toNat / 10 ^ (2 - j.val) % 10 := by
  have hlt : j.val < (bcdDigits b).length := j.isLt
  rw [← ha, State.memByte_storeBytes_at hwf (length_bcdDigits b) hfit hlt, getElem_bcdDigits]

theorem State.memByte_store_bcdDigits_off {s : State} (hwf : Memory.wf s.cfg s.mem) (b : Byte) {a : Nat}
    (hfit : s.dataAddr 2 ≤ 4095) (hoff : ∀ j : Fin 3, s.dataAddr j.val ≠ a) :
    (s.storeBytes (s.dataAddr 0) (bcdDigits b)).memByte a = s.memByte a :=
  State.memByte_storeBytes_off hwf (length_bcdDigits b) hfit (fun j hj => hoff ⟨j, hj⟩)

/-! ## The next fetch -/

/-- After a store and the advance of PC, the fetched word is made of the two bytes that the store left at PC + 2 and
PC + 3. -/
theorem State.fetchWord?_storeBytes_advance {s : State} (hpc : s.pc.toNat ≤ 4092) (a : Nat) (bs : List Byte) :
    ∃ w, (s.storeBytes a bs).advance.fetchWord? = some w ∧
      w.toNat / 256 = ((s.storeBytes a bs).memByte (s.pc.toNat + 2)).toNat ∧
      w.toNat % 256 = ((s.storeBytes a bs).memByte (s.pc.toNat + 3)).toNat := by
  have hnext : (s.storeBytes a bs).advance.pc.toNat = s.pc.toNat + 2 := by
    rw [State.advance_pc, State.storeBytes_pc]
    bv_omega
  refine ⟨_, State.fetchWord?_of_le (by omega), ?_⟩
  have hhi := ((s.storeBytes a bs).memByte (s.pc.toNat + 2)).isLt
  have hlo := ((s.storeBytes a bs).memByte (s.pc.toNat + 3)).isLt
  simp only [hnext, State.advance_memByte, Laws.wordOfBytes_toNat, Nat.add_assoc, Nat.reduceAdd]
  omega

/-- Settles O10: the next fetch reads memory as the store left it, the stored byte at each of its addresses and the old one
elsewhere. -/
theorem storeIsSeenByTheNextFetch : Obligations.StoreIsSeenByTheNextFetch := by
  constructor
  · intro x s hwf hfit hpc
    obtain ⟨w, hw, hhi, hlo⟩ := State.fetchWord?_storeBytes_advance hpc (s.dataAddr 0) (s.regRun x)
    refine ⟨_, w, exec_ldMemVx_of_inRange (State.inRange_of_dataAddr_le hfit), hw, ?_, ?_, ?_, ?_⟩
    · exact fun j hj ha => by rw [hhi, State.memByte_store_regRun hwf hfit hj ha]
    · exact fun j hj ha => by rw [hlo, State.memByte_store_regRun hwf hfit hj ha]
    · exact fun hoff => by rw [hhi, State.memByte_store_regRun_off hwf hfit hoff]
    · exact fun hoff => by rw [hlo, State.memByte_store_regRun_off hwf hfit hoff]
  · intro x s hwf hfit hpc
    obtain ⟨w, hw, hhi, hlo⟩ := State.fetchWord?_storeBytes_advance hpc (s.dataAddr 0) (bcdDigits (s.readV x))
    refine ⟨_, w, exec_ldBVx_of_inRange (State.inRange_of_dataAddr_le hfit), hw, ?_, ?_, ?_, ?_⟩
    · exact fun j ha => by rw [hhi, State.memByte_store_bcdDigits hwf _ hfit ha]
    · exact fun j ha => by rw [hlo, State.memByte_store_bcdDigits hwf _ hfit ha]
    · exact fun hoff => by rw [hhi, State.memByte_store_bcdDigits_off hwf _ hfit hoff]
    · exact fun hoff => by rw [hlo, State.memByte_store_bcdDigits_off hwf _ hfit hoff]

end Sys2Proof.Machine
end

section
/-! SUPPORT. The value of each operand field as a number (30_encoding.md R61). -/

namespace Sys2Proof

/-- A slice of a word is a division that drops the bits below it and a remainder that drops those above. -/
theorem toNat_slice (w : Word) (lo len : Nat) : (w.extractLsb' lo len).toNat = w.toNat / 2 ^ lo % 2 ^ len := by
  rw [BitVec.extractLsb'_toNat, Nat.shiftRight_eq_div_pow]

theorem toNat_lowSlice (w : Word) (len : Nat) : (w.extractLsb' 0 len).toNat = w.toNat % 2 ^ len := by
  rw [toNat_slice, Nat.pow_zero, Nat.div_one]

theorem fieldX_val (w : Word) : (fieldX w).val = w.toNat / 256 % 16 := toNat_slice w 8 4

theorem fieldY_val (w : Word) : (fieldY w).val = w.toNat / 16 % 16 := toNat_slice w 4 4

theorem fieldN_val (w : Word) : (fieldN w).val = w.toNat % 16 := toNat_lowSlice w 4

theorem fieldKk_toNat (w : Word) : (fieldKk w).toNat = w.toNat % 256 := toNat_lowSlice w 8

theorem fieldNnn_toNat (w : Word) : (fieldNnn w).toNat = w.toNat % 4096 := toNat_lowSlice w 12

end Sys2Proof

namespace Sys2Proof.Machine

/-- Settles O4: each field is a slice of the word, and a slice is a quotient and a remainder. -/
theorem fieldsAreSlicesOfTheWord : Obligations.FieldsAreSlicesOfTheWord :=
  fun w => ⟨fieldNnn_toNat w, fieldN_val w, fieldX_val w, fieldY_val w, fieldKk_toNat w⟩

end Sys2Proof.Machine
end

section
/-! SUPPORT. A control transfer changes PC, and with CALL and RET the call stack, and nothing else (40_control_flow.md R82,
R84 to R88); RET undoes the CALL before it (R87). -/

namespace Sys2Proof.Machine

/-- A jump, alone or after the stack and its count are written. -/
theorem keptExcept_jump_of_callStack (s : State) (n : Fin 17) (stack : Vector Word stackDepth) (target : Word) :
    keptExcept [.pc, .callStack] s (State.jump { s with stack := stack, sp := n } target) := by
  intro p hp
  cases p with
  | pc | callStack => simp at hp
  | waitLatches => exact ⟨rfl, rfl⟩
  | haltRecord => exact ⟨rfl, rfl, rfl⟩
  | memory => exact fun _ => rfl
  | i | dt | st | disp | keys | needsRedraw | runState | cfg | rndCount => rfl

theorem keptExcept_jump (s : State) (target : Word) : keptExcept [.pc] s (s.jump target) := by
  intro p hp
  by_cases hstack : p = .callStack
  · subst hstack
    exact ⟨rfl, rfl⟩
  · exact keptExcept_jump_of_callStack s s.sp s.stack target p (by simpa [hstack] using hp)

theorem addrOf_toNat (nnn : Addr12) : (addrOf nnn).toNat = nnn.toNat := by
  simp only [addrOf, BitVec.toNat_setWidth]
  omega

/-- Settles O13: JP is the jump and nothing else. -/
theorem jpSetsPcToTheAddress : Obligations.JpSetsPcToTheAddress :=
  fun nnn s => ⟨s.jump (addrOf nnn), rfl, addrOf_toNat nnn, fun _ _ => rfl, keptExcept_jump s _⟩

/-- A CALL with an entry free leaves a state that runs on and fetches as a plain jump would, since CALL writes no memory; and
RET there takes the count back, leaves the pushed address in the array and jumps to it. -/
theorem exec_call_then_ret {s : State} (hsp : s.sp.val < 16) (nnn : Addr12) :
    ∃ u, exec (.call nnn) s = .next u ∧ u.runState = s.runState ∧ u.fetchWord? = (s.jump (addrOf nnn)).fetchWord? ∧
      exec .ret u = .next (State.jump { s with stack := s.stack.set s.sp.val (s.pc + 2) } (s.pc + 2)) := by
  refine ⟨_, exec_call_of_room hsp, rfl, rfl, ?_⟩
  rw [exec_ret_of_live (Nat.succ_ne_zero s.sp.val)]
  simp [State.jump]

theorem runEvents_two_steps {s u t : State} (h : step s = .next u) (h' : step u = .next t) :
    runEvents [.step, .step] s = .next t := by
  simp only [runEvents, applyEvent, h, h']

/-- Settles O17: the first step is the CALL, the second the RET, which undoes it. -/
theorem callThenRetComesBack : Obligations.CallThenRetComesBack := by
  intro s w w' nnn j hrun hsp hf hd hf' hd'
  obtain ⟨u, hcall, hkept, hfetch, hret⟩ := exec_call_then_ret (hsp ▸ j.isLt) nnn
  have hfirst := (step_of_decoded hrun hf hd).trans hcall
  have hsecond := (step_of_decoded (hkept.trans hrun) (hfetch.trans hf') hd').trans hret
  refine ⟨_, runEvents_two_steps hfirst hsecond, rfl, rfl, ?_, fun _ _ => rfl, keptExcept_jump_of_callStack s s.sp _ _⟩
  simp only [State.jump_stack, hsp]

end Sys2Proof.Machine
end

section
/-! SUPPORT. How the cycle ends for an instruction (40_control_flow.md R80, R81), and the word a halting instruction records
(60_exceptions.md R170; log 7). -/

namespace Sys2Proof.Machine

/-- What an instruction can answer, as the cycle tells the cases apart: a halt, which does nothing else; the start of a key
wait; a PC written by the instruction's own rule; or the advance of PC by 2. -/
inductive CycleEnd (i : Instr) (s : State) : Result → Prop where
  | halt (c : HaltCause) : CycleEnd i s (.next (s.raiseHalt c (encode i)))
  | wait (x : RegIdx) : CycleEnd i s (.next (s.beginWait x))
  | redirect {t : State} (hpc : i.writesPc = true) (hrun : t.runState = s.runState) : CycleEnd i s (.next t)
  | advance {t : State} (hpc : t.pc = s.pc) (hrun : t.runState = s.runState) : CycleEnd i s (.next t.advance)

theorem cycleEnd_withDataRange {i : Instr} {s : State} (len : Nat) {f : State → State} (hpc : (f s).pc = s.pc)
    (hrun : (f s).runState = s.runState) : CycleEnd i s (s.withDataRange len (encode i) f) := by
  obtain ⟨-, h⟩ | ⟨-, h⟩ := s.withDataRange_cases len (encode i) f
  · exact h ▸ .advance hpc hrun
  · exact h ▸ .halt _

theorem cycleEnd_exec (i : Instr) (s : State) : CycleEnd i s (exec i s) := by
  cases i with
  | sys => exact .halt _
  | call nnn =>
    by_cases hsp : s.sp.val < 16
    · exact exec_call_of_room hsp ▸ .redirect rfl rfl
    · rw [exec_call_of_full (by omega)]
      exact .halt _
  | ret =>
    by_cases hsp : s.sp.val = 0
    · exact exec_ret_of_empty hsp ▸ .halt _
    · exact exec_ret_of_live hsp ▸ .redirect rfl rfl
  | ldVxK x => exact .wait x
  | jp | jpV0Addr | seVxKk | sneVxKk | seVxVy | sneVxVy | skpVx | sknpVx => exact .redirect rfl rfl
  | ldBVx | ldMemVx | ldVxMem | drwVxVyN =>
    simp only [exec, execLdBVx, execLdMemVx, execLdVxMem, execDrwVxVyN]
    exact cycleEnd_withDataRange _ rfl rfl
  | cls | ldVxKk | addVxKk | ldVxVy | orVxVy | andVxVy | xorVxVy | addVxVy | subVxVy | shrVx | subnVxVy | shlVx | ldIAddr
  | rndVxKk | ldVxDt | ldDtVx | ldStVx | addIVx | ldFVx => exact .advance rfl rfl

/-- A word that decodes is the word of its instruction. -/
theorem encode_of_decodeWord {w : Word} {i : Instr} (h : decodeWord w = .ok i) : encode i = w := by
  unfold decodeWord at h
  split at h
  · next r hr =>
    cases h
    have haccepts : r.accepts w = true := List.find?_some (p := fun r : OpRow => r.accepts w) hr
    exact Laws.encode_build_of_accepts (List.mem_of_find?_eq_some hr) haccepts
  · cases h

/-- The last lines of the cycle: where the rule left PC alone and the machine still runs, PC is 2 further, and a halt did
nothing else and recorded the fetched word. -/
theorem exec_completes_cycle {s t : State} {w : Word} {i : Instr} (hrun : s.runState = .running)
    (hd : decodeWord w = .ok i) (ht : exec i s = .next t) :
    (i.writesPc = false → t.runState = .running → t.pc = s.pc + 2) ∧
      (t.runState = .halted → haltedFrom t.haltCause w s t) := by
  have hend := cycleEnd_exec i s
  rw [ht] at hend
  cases hend with
  | halt c => exact ⟨fun _ h => by simp at h, fun _ => encode_of_decodeWord hd ▸ haltedFrom_raiseHalt s c _⟩
  | wait x => exact ⟨fun _ h => by simp at h, fun h => by simp at h⟩
  | redirect hpc hkept => exact ⟨fun h => by simp [hpc] at h, fun h => by simp [hkept, hrun] at h⟩
  | advance hpc hkept => exact ⟨fun _ _ => by simp [hpc], fun h => by simp [hkept, hrun] at h⟩

/-- Settles O6, one clause of the cycle after another. -/
theorem stepRunsTheDecodedInstruction : Obligations.StepRunsTheDecodedInstruction :=
  ⟨fun _ => step_of_halted, fun _ => step_of_awaitingKey,
    fun s hrun hf => ⟨_, step_of_noFetch hrun hf, haltedFrom_raiseHalt s _ _⟩,
    fun s _ _ hrun hf hd => ⟨_, step_of_unknown hrun hf hd, haltedFrom_raiseHalt s _ _⟩,
    fun _ _ _ hrun hf hd => ⟨step_of_decoded hrun hf hd, fun _ ht => exec_completes_cycle hrun hd ht⟩⟩

end Sys2Proof.Machine
end

section
/-! SUPPORT. An instruction that assigns one register and moves PC to the next instruction does nothing else
(41_load_alu.md R101 to R106). -/

namespace Sys2Proof.Machine

/-- The advance of PC adds PC, and only PC, to the parts that may have changed. -/
theorem keptExcept_advance {ps : List Part} {s t : State} (h : keptExcept ps s t) :
    keptExcept (.pc :: ps) s t.advance := by
  intro p hp
  have hkept := h p (List.not_mem_of_not_mem_cons hp)
  cases p with
  | pc => simp at hp
  | i | callStack | dt | st | memory | disp | keys | needsRedraw | runState | waitLatches | haltRecord | cfg | rndCount =>
    exact hkept

/-- The general registers are no `Part`, so writing one keeps every part. -/
theorem keptExcept_writeV (s : State) (x : RegIdx) (b : Byte) : keptExcept [] s (s.writeV x b) := by
  intro p _
  cases p with
  | callStack | waitLatches => exact ⟨rfl, rfl⟩
  | haltRecord => exact ⟨rfl, rfl, rfl⟩
  | memory => exact fun _ => rfl
  | i | pc | dt | st | disp | keys | needsRedraw | runState | cfg | rndCount => rfl

theorem regsKeptExcept_writeV (s : State) (x : RegIdx) (b : Byte) : regsKeptExcept [x] s (s.writeV x b) :=
  fun _ hj => s.readV_writeV_ne b (Ne.symm (List.ne_of_not_mem_cons hj))

/-- The whole effect of an assignment to Vx: Vx has the byte, PC is 2 further, and every other register, VF unless it is Vx,
and every other part is kept. -/
theorem writeV_advance_effect (s : State) (x : RegIdx) (b : Byte) :
    (s.writeV x b).advance.readV x = b ∧ (s.writeV x b).advance.pc = s.pc + 2 ∧
      regsKeptExcept [x] s (s.writeV x b).advance ∧ keptExcept [.pc] s (s.writeV x b).advance :=
  ⟨s.readV_writeV_self x b, rfl, regsKeptExcept_writeV s x b, keptExcept_advance (keptExcept_writeV s x b)⟩

/-- Settles O19: LD Vx,kk is the assignment of kk. -/
theorem ldVxKkAssignsTheByte : Obligations.LdVxKkAssignsTheByte :=
  fun x kk s => ⟨_, rfl, writeV_advance_effect s x kk⟩

/-- Settles O20: ADD Vx,kk is the assignment of the 8-bit sum, which is the sum modulo 256. -/
theorem addVxKkWrapsWithoutFlag : Obligations.AddVxKkWrapsWithoutFlag := by
  intro x kk s
  obtain ⟨hv, hrest⟩ := writeV_advance_effect s x (s.readV x + kk)
  exact ⟨_, rfl, by rw [hv, BitVec.toNat_add], hrest⟩

/-- Settles O21: LD Vx,Vy is the assignment of the old Vy. -/
theorem ldVxVyCopiesTheRegister : Obligations.LdVxVyCopiesTheRegister :=
  fun x y s => ⟨_, rfl, writeV_advance_effect s x (s.readV y)⟩

/-- Settles O22: each of the three is the assignment of the bitwise combination of the old Vx and Vy; a byte combined with
itself is itself under OR and AND, and 0 under XOR. -/
theorem bitwiseCombineWithoutFlag : Obligations.BitwiseCombineWithoutFlag := by
  refine fun x y s => ⟨?or, ?and, ?xor⟩
  case or =>
    obtain ⟨hv, hrest⟩ := writeV_advance_effect s x (s.readV x ||| s.readV y)
    exact ⟨_, rfl, fun b => by rw [hv, BitVec.getLsbD_or], fun hxy => by rw [hv, ← hxy, BitVec.or_self], hrest⟩
  case and =>
    obtain ⟨hv, hrest⟩ := writeV_advance_effect s x (s.readV x &&& s.readV y)
    exact ⟨_, rfl, fun b => by rw [hv, BitVec.getLsbD_and], fun hxy => by rw [hv, ← hxy, BitVec.and_self], hrest⟩
  case xor =>
    obtain ⟨hv, hrest⟩ := writeV_advance_effect s x (s.readV x ^^^ s.readV y)
    exact ⟨_, rfl, fun b => by rw [hv, BitVec.getLsbD_xor], fun hxy => by rw [hv, ← hxy, BitVec.xor_self]; rfl, hrest⟩

end Sys2Proof.Machine
end

section
/-! SUPPORT. An instruction that assigns I and moves PC to the next instruction does nothing else (42_index_memory.md R121,
R122, R124). -/

namespace Sys2Proof.Machine

theorem keptExcept_setI (s : State) (w : Word) : keptExcept [.i] s (s.setI w) := by
  intro p hp
  cases p with
  | i => simp at hp
  | callStack | waitLatches => exact ⟨rfl, rfl⟩
  | haltRecord => exact ⟨rfl, rfl, rfl⟩
  | memory => exact fun _ => rfl
  | pc | dt | st | disp | keys | needsRedraw | runState | cfg | rndCount => rfl

/-- The whole effect of an assignment to I beside its value: PC is 2 further, and every general register, VF included, and
every other part is kept, the run state and the halt record among them. -/
theorem setI_advance_effect (s : State) (w : Word) :
    (s.setI w).advance.pc = s.pc + 2 ∧ regsKeptExcept [] s (s.setI w).advance ∧
      keptExcept [.pc, .i] s (s.setI w).advance :=
  ⟨rfl, fun _ _ => rfl, keptExcept_advance (keptExcept_setI s w)⟩

/-- Settles O28: LD I,addr is the assignment of the address, which zero-extension leaves the same number. -/
theorem ldIAssignsTheAddress : Obligations.LdIAssignsTheAddress :=
  fun nnn s => ⟨(s.setI (addrOf nnn)).advance, rfl, addrOf_toNat nnn, setI_advance_effect s _⟩

end Sys2Proof.Machine
end

section
/-! SUPPORT. CLS (43_display.md R142), and two draws of one sprite (R145): the second flips back what the first flipped. -/

namespace Sys2Proof.Machine

/-! ## Replacing the display -/

theorem keptExcept_redraw (s : State) (d : Display) : keptExcept [.disp, .needsRedraw] s (s.redraw d) := by
  intro p hp
  cases p with
  | disp | needsRedraw => simp at hp
  | callStack | waitLatches => exact ⟨rfl, rfl⟩
  | haltRecord => exact ⟨rfl, rfl, rfl⟩
  | memory => exact fun _ => rfl
  | pc | i | dt | st | keys | runState | cfg | rndCount => rfl

/-- Settles O33: CLS replaces the display by the clear one and advances PC. -/
theorem clsClearsEveryPixel : Obligations.ClsClearsEveryPixel :=
  fun s => ⟨(s.redraw Display.clear).advance, rfl, Display.pixel_clear, rfl, rfl, fun _ _ => rfl,
    keptExcept_advance (keptExcept_redraw s _)⟩

/-! ## Flipping the same pixels twice -/

/-- The pixels that flips turn on are the flipped ones that are on afterwards. -/
theorem FlipsExactly.turnedOn_iff {hit : Fin 32 → Fin 64 → Prop} {acc out : Display × Bool} (h : FlipsExactly hit acc out)
    (r : Fin 32) (c : Fin 64) : (hit r c ∧ Display.pixel out.1 r c = true) ↔
      (Display.pixel acc.1 r c = false ∧ Display.pixel out.1 r c = true) := by
  by_cases hrc : hit r c
  · simp [hrc, h.flipped r c hrc]
  · simp [hrc, h.kept r c hrc]

/-- Flips of no pixel change neither the display nor the collision. -/
theorem FlipsExactly.eq_of_no_hit {hit : Fin 32 → Fin 64 → Prop} {acc out : Display × Bool} (h : FlipsExactly hit acc out)
    (hnone : ¬∃ r c, hit r c) : out = acc := by
  have hkept : ∀ r c, ¬hit r c := fun r c hrc => hnone ⟨r, c, hrc⟩
  refine Prod.ext (Display.ext_pixel fun r c => h.kept r c (hkept r c)) (Bool.eq_iff_iff.mpr ?_)
  simpa [hkept] using h.collided

section
variable {hit : Fin 32 → Fin 64 → Prop} {acc mid out : Display × Bool}
  (h₁ : FlipsExactly hit acc mid) (h₂ : FlipsExactly hit (mid.1, false) out)
include h₁ h₂

theorem FlipsExactly.twice_restores : out.1 = acc.1 := by
  refine Display.ext_pixel fun r c => ?_
  by_cases hrc : hit r c
  · rw [h₂.flipped r c hrc, h₁.flipped r c hrc, Bool.not_not]
  · rw [h₂.kept r c hrc, h₁.kept r c hrc]

theorem FlipsExactly.twice_collided :
    out.2 = true ↔ ∃ r c, Display.pixel acc.1 r c = false ∧ Display.pixel mid.1 r c = true := by
  simpa [h₁.turnedOn_iff] using h₂.collided

/-- Where every pixel was off, each flipped one is on when it is flipped again. -/
theorem FlipsExactly.twice_collided_of_clear (hclear : ∀ r c, Display.pixel acc.1 r c = false) :
    out.2 = true ↔ ∃ r c, hit r c := by
  have hon : ∀ r c, hit r c → Display.pixel mid.1 r c = true := fun r c hrc => by
    rw [h₁.flipped r c hrc, hclear r c, Bool.not_false]
  rw [h₂.collided]
  constructor
  · rintro (h | ⟨r, c, hrc, -⟩)
    · cases h
    · exact ⟨r, c, hrc⟩
  · exact fun ⟨r, c, hrc⟩ => .inr ⟨r, c, hrc, hon r c hrc⟩

end

/-! ## The pixels of a sprite -/

/-- A byte that is not 0 has a 1 bit in one of the 8 columns. -/
theorem exists_spriteBit_iff (b : Byte) : (∃ col, col < 8 ∧ b.getLsbD (7 - col) = true) ↔ b ≠ 0 := by
  constructor
  · rintro ⟨col, -, hbit⟩ rfl
    simp at hbit
  · intro hb
    by_contra hnone
    refine hb (BitVec.eq_of_getLsbD_eq fun k hk => ?_)
    have hoff : b.getLsbD (7 - (7 - k)) ≠ true := fun hbit => hnone ⟨7 - k, by omega, hbit⟩
    simpa [show 7 - (7 - k) = k by omega] using hoff

theorem exists_spriteCovers_iff (x0 y0 : Byte) (bytes : List Byte) :
    (∃ r c, spriteCovers x0 y0 bytes r c) ↔ ∃ b ∈ bytes, b ≠ 0 := by
  constructor
  · rintro ⟨r, c, row, col, b, hrow, hcol, hbit, -, -⟩
    exact ⟨b, List.mem_of_getElem? hrow, (exists_spriteBit_iff b).mp ⟨col, hcol, hbit⟩⟩
  · rintro ⟨b, hmem, hb⟩
    obtain ⟨row, hrow⟩ := List.mem_iff_getElem?.mp hmem
    obtain ⟨col, hcol, hbit⟩ := (exists_spriteBit_iff b).mpr hb
    exact ⟨wrapRow y0 row, wrapCol x0 col, row, col, b, hrow, hcol, hbit, rfl, rfl⟩

/-- The pixels that the 1 bits of DRW's sprite fall on, from the bytes at I and the coordinates in Vx and Vy. -/
def State.spriteHits (s : State) (x y : RegIdx) (n : Fin 16) : Fin 32 → Fin 64 → Prop :=
  spriteCovers (s.readV x) (s.readV y) (s.loadBytes (s.dataAddr 0) n.val)

theorem State.exists_spriteHits_iff (s : State) (x y : RegIdx) (n : Fin 16) :
    (∃ r c, s.spriteHits x y n r c) ↔ ∃ j, j < n.val ∧ s.memByte (s.dataAddr j) ≠ 0 := by
  simp only [State.spriteHits, exists_spriteCovers_iff]
  simp [State.loadBytes, State.dataAddr]

/-! ## DRW on the display and VF -/

theorem flagOf_eq_one_iff (b : Bool) : flagOf b = 1 ↔ b = true := by
  cases b <;> decide

/-- DRW flips the pixels its sprite hits, and VF is the flag of the collision. -/
theorem State.drawSprite_flips (s : State) (x y : RegIdx) (n : Fin 16) :
    ∃ collision, FlipsExactly (s.spriteHits x y n) (s.disp, false) ((s.drawSprite x y n).disp, collision) ∧
      (s.drawSprite x y n).readV VF = flagOf collision :=
  ⟨_, draw_flips s.disp _ _ _ (by rw [State.length_loadBytes]; omega), s.readV_writeV_self VF _⟩

/-- After DRW at coordinates that are not VF the same operands hit the same pixels: it writes no memory, not I, and no
register but VF. -/
theorem State.spriteHits_drawSprite (s : State) {x y : RegIdx} (n : Fin 16) (hx : x ≠ VF) (hy : y ≠ VF) :
    (s.drawSprite x y n).advance.spriteHits x y n = s.spriteHits x y n := by
  have hkept : ∀ j, j ≠ VF → (s.drawSprite x y n).advance.readV j = s.readV j := fun j hj =>
    s.readV_writeV_ne _ hj.symm
  simp only [State.spriteHits, hkept x hx, hkept y hy]
  rfl

/-- Settles O35: both draws flip the same pixels, so the second undoes the first and meets what the first turned on. -/
theorem drawingTwiceRestoresTheDisplay : Obligations.DrawingTwiceRestoresTheDisplay := by
  intro x y n s hx hy hfit
  have hin : inRange s.i.toNat n.val = true := (inRange_iff _ _).mpr hfit
  obtain ⟨b₁, hflips₁, hVF₁⟩ := s.drawSprite_flips x y n
  obtain ⟨b₂, hflips₂, hVF₂⟩ := (s.drawSprite x y n).advance.drawSprite_flips x y n
  rw [s.spriteHits_drawSprite n hx hy] at hflips₂
  refine ⟨(s.drawSprite x y n).advance, ((s.drawSprite x y n).advance.drawSprite x y n).advance,
    exec_drwVxVyN_of_inRange hin, exec_drwVxVyN_of_inRange hin, hflips₁.twice_restores (out := (_, b₂)) hflips₂,
    ?_, ?_, ?_⟩
  · rw [State.advance_readV, hVF₂, flagOf_eq_one_iff]
    exact hflips₁.twice_collided hflips₂
  · intro hclear
    rw [State.advance_readV, hVF₂, flagOf_eq_one_iff, ← s.exists_spriteHits_iff x y n]
    exact hflips₁.twice_collided_of_clear hflips₂ hclear
  · intro hzero
    have hnone : ¬∃ r c, s.spriteHits x y n r c := by
      rw [State.exists_spriteHits_iff]
      exact fun ⟨j, hj, hne⟩ => hne (hzero j hj)
    obtain ⟨hdisp, rfl⟩ := Prod.mk.inj (hflips₁.eq_of_no_hit hnone)
    exact ⟨hdisp, hVF₁⟩

end Sys2Proof.Machine
end

section
/-! SUPPORT. LD Vx,DT and LD DT,Vx (44_timers_keys.md R150, R151): the one assigns a register, the other DT, and both move PC to
the next instruction. -/

namespace Sys2Proof.Machine

theorem keptExcept_setDt (s : State) (b : Byte) : keptExcept [.dt] s (s.setDt b) := by
  intro p hp
  cases p with
  | dt => simp at hp
  | callStack | waitLatches => exact ⟨rfl, rfl⟩
  | haltRecord => exact ⟨rfl, rfl, rfl⟩
  | memory => exact s.setDt_memByte b
  | i | pc | st | disp | keys | needsRedraw | runState | cfg | rndCount => rfl

/-- The whole effect of an assignment to DT: DT has the byte, PC is 2 further, and every general register, VF included, and
every other part is kept, the run state and the halt record among them. -/
theorem setDt_advance_effect (s : State) (b : Byte) :
    (s.setDt b).advance.dt = b ∧ (s.setDt b).advance.pc = s.pc + 2 ∧ regsKeptExcept [] s (s.setDt b).advance ∧
      keptExcept [.pc, .dt] s (s.setDt b).advance :=
  ⟨rfl, rfl, fun j _ => s.setDt_readV b j, keptExcept_advance (keptExcept_setDt s b)⟩

/-- Settles O36: LD Vx,DT is the assignment of DT to Vx, and LD DT,Vx that of Vx to DT. -/
theorem delayTimerTransfers : Obligations.DelayTimerTransfers :=
  fun x s => ⟨⟨_, rfl, writeV_advance_effect s x s.dt⟩, ⟨_, rfl, setDt_advance_effect s (s.readV x)⟩⟩

end Sys2Proof.Machine
end

section
/-! SUPPORT. The three events that act at once (60_exceptions.md R178 to R180): KeySet and RedrawAck, which do not look at the
run state, and Stop, which does. -/

namespace Sys2Proof.Machine

/-! ## KeySet -/

theorem State.getElem_keySet_keys (s : State) (k j : KeyIdx) (b : Bool) :
    (s.keySet k b).keys[j.val] = if j = k then b else s.keys[j.val] := by
  simp only [State.keySet_keys, Vector.getElem_set, Fin.val_inj, eq_comm (a := j)]

theorem State.keySet_eq_self {s : State} {k : KeyIdx} {b : Bool} (h : s.keys[k.val] = b) : s.keySet k b = s := by
  subst h
  simp only [State.keySet, Vector.set_getElem_self]

theorem keptExcept_keySet (s : State) (k : KeyIdx) (b : Bool) : keptExcept [.keys] s (s.keySet k b) := by
  intro p hp
  cases p with
  | keys => simp at hp
  | callStack | waitLatches => exact ⟨rfl, rfl⟩
  | haltRecord => exact ⟨rfl, rfl, rfl⟩
  | memory => exact s.keySet_memByte k b
  | i | pc | dt | st | disp | needsRedraw | runState | cfg | rndCount => rfl

/-- Settles O44: KeySet is the write of one flag, and the write of the value that is there leaves the same state. -/
theorem keySetWritesOneKey : Obligations.KeySetWritesOneKey :=
  fun k b s => ⟨s.keySet k b, rfl, fun j => s.getElem_keySet_keys k j b, State.keySet_eq_self,
    fun j _ => s.keySet_readV k b j, keptExcept_keySet s k b⟩

/-! ## RedrawAck -/

/-- RedrawAck is another redraw signal beside the same sound timer. -/
theorem keptExcept_redrawAck (s : State) : keptExcept [.needsRedraw] s s.redrawAck := by
  intro p hp
  by_cases hst : p = .st
  · subst hst
    exact s.redrawAck_st
  · exact keptExcept_withSignals s s.st false p (by simpa [hst] using hp)

/-- Settles O45: RedrawAck is the write of one signal. -/
theorem redrawAckClearsTheSignal : Obligations.RedrawAckClearsTheSignal :=
  fun s => ⟨s.redrawAck, rfl, s.redrawAck_needsRedraw, fun j _ => s.redrawAck_readV j, keptExcept_redrawAck s⟩

/-! ## Stop -/

theorem State.stop_of_halted {s : State} (h : s.runState = .halted) : s.stop = s := by
  simp only [State.stop, h]

theorem State.stop_of_not_halted {s : State} (h : s.runState ≠ .halted) : s.stop = s.raiseHalt .stopRequested 0 := by
  cases hr : s.runState with
  | halted => exact absurd hr h
  | running | awaitingKey => simp only [State.stop, hr]

/-- Settles O46: where the machine is not halted, Stop raises the halt, with its whole snapshot; where it is, Stop is the
identity. -/
theorem stopHaltsOnRequest : Obligations.StopHaltsOnRequest :=
  ⟨fun s h => ⟨s.stop, rfl, State.stop_of_not_halted h ▸ haltedFrom_raiseHalt s .stopRequested 0⟩,
    fun _ h => congrArg Host.Outcome.next (State.stop_of_halted h)⟩

end Sys2Proof.Machine
end

section
/-! SUPPORT. The decoder and the encoder undo each other (30_encoding.md R60 to R65), and the words of the table of R70 are
those that decode to no instruction but SYS. -/

namespace Sys2Proof.Laws

/-! ## Decoding what was encoded -/

theorem clash_comm (r r' : OpRow) : clash r r' = clash r' r := by
  simp only [clash, BitVec.and_comm r.mask, BitVec.xor_comm r.pattern]

/-- In a list whose earlier elements exclude the later ones, `find?` answers a member that qualifies, wherever it stands. -/
theorem find?_eq_some_of_pairwise {α : Type} {R : α → α → Prop} {p : α → Bool} {l : List α} (hl : l.Pairwise R) {a : α}
    (ha : a ∈ l) (hp : p a = true) (hbefore : ∀ b ∈ l, R b a → p b = false) : l.find? p = some a := by
  induction l with
  | nil => cases ha
  | cons b rest ih =>
    obtain ⟨hb, hrest⟩ := List.pairwise_cons.mp hl
    rcases List.mem_cons.mp ha with rfl | ha
    · simp only [List.find?_cons, hp]
    · simp only [List.find?_cons, hbefore b List.mem_cons_self (hb a ha)]
      exact ih hrest ha fun c hc => hbefore c (List.mem_cons_of_mem _ hc)

/-- Only CLS and RET fix all 16 bits. -/
theorem pattern_of_full_mask : ∀ r ∈ opcodeTable, r.mask = 0xFFFF#16 → r.pattern = 0x00E0#16 ∨ r.pattern = 0x00EE#16 := by
  decide

theorem eq_sys_of_pattern {i : Instr} (h : (rowOf i).pattern = 0) : ∃ nnn, i = .sys nnn := by
  cases i with
  | sys nnn => exact ⟨nnn, rfl⟩
  | _ => simp +decide [rowOf] at h

/-- The word of SYS holds its address in the low 12 bits. -/
theorem eq_slice_of_encode_sys {nnn : Addr12} {w : Word} (h : encode (.sys nnn) = w) : nnn = w.extractLsb' 0 12 := by
  have hword : encode (.sys nnn) = placeNnn nnn := BitVec.zero_or
  rw [← h, hword, slice_placeNnn]

/-- A row that lies inside SYS's row refuses the word of a well-formed SYS (R64). -/
theorem not_accepts_of_sysOverlap {i : Instr} (hi : i.wellFormed = true) {r : OpRow} (hr : r ∈ opcodeTable)
    (h : sysOverlap r (rowOf i) = true) : r.accepts (encode i) = false := by
  simp only [sysOverlap, Bool.and_eq_true, beq_iff_eq] at h
  obtain ⟨⟨hfull, -⟩, hsys⟩ := h
  obtain ⟨nnn, rfl⟩ := eq_sys_of_pattern hsys
  rw [Bool.eq_false_iff, ne_eq, accepts_iff, hfull, show (0xFFFF#16 : Word) = BitVec.allOnes 16 from rfl,
    BitVec.and_allOnes]
  intro hword
  obtain rfl := eq_slice_of_encode_sys hword
  rcases pattern_of_full_mask r hr hfull with hp | hp <;> simp [hp, Instr.wellFormed] at hi

theorem decodeWord_encode {i : Instr} (hi : i.wellFormed = true) : decodeWord (encode i) = .ok i := by
  have hfind : opcodeTable.find? (fun r => r.accepts (encode i)) = some (rowOf i) := by
    refine find?_eq_some_of_pairwise opcodeTable_clash (rowOf_mem i) (accepts_encode i) fun r hr hover => ?_
    rcases hover with hclash | hsys
    · exact not_accepts_of_clash (accepts_encode i) (clash_comm r (rowOf i) ▸ hclash)
    · exact not_accepts_of_sysOverlap hi hr hsys
  simp only [decodeWord, hfind, build_encode]

end Sys2Proof.Laws

namespace Sys2Proof.Machine

open Sys2Proof.Laws

/-- Settles O2: the two bytes make the encoded word again, and its row is the first that accepts it. -/
theorem decodeOfEncodeGivesTheInstructionBack : Obligations.DecodeOfEncodeGivesTheInstructionBack := by
  intro i rest hi
  simp only [encodeBytes, bytesOfWord, List.cons_append, List.nil_append, decode, wordOfBytes_of_slices,
    decodeWord_encode hi]

/-- The words 00E0 and 00EE decode to CLS and RET, so SYS is decoded with another address. -/
theorem wellFormed_of_decodeWord {w : Word} {i : Instr} (h : decodeWord w = .ok i) : i.wellFormed = true := by
  cases i with
  | sys nnn =>
    have hsys : decodeWord (encode (.sys nnn)) = .ok (.sys nnn) := (encode_of_decodeWord h).symm ▸ h
    have hcls : nnn ≠ 0x0E0#12 := by
      rintro rfl
      exact absurd hsys (by decide)
    have hret : nnn ≠ 0x0EE#12 := by
      rintro rfl
      exact absurd hsys (by decide)
    simp [Instr.wellFormed, hcls, hret]
  | _ => rfl

/-- Settles O3: an accepted word is its row's pattern with its fields. -/
theorem encodeOfDecodeGivesTheWordBack : Obligations.EncodeOfDecodeGivesTheWordBack :=
  fun _ _ h => ⟨wellFormed_of_decodeWord h, encode_of_decodeWord h⟩

/-- Settles O1: each word is looked up in the opcode map. -/
theorem wordsOfTheOpcodeMapDecode : Obligations.WordsOfTheOpcodeMapDecode := by
  unfold Obligations.WordsOfTheOpcodeMapDecode
  decide

/-! ## The table of unknown words -/

/-- What a mask of the opcode map leaves of a word: its top nibble and its low `k` bits. -/
theorem toNat_and_mask (w : Word) {k : Nat} (hk : k ≤ 12) :
    (w &&& (0xF000#16 ||| BitVec.ofNat 16 (2 ^ k - 1))).toNat = w.toNat / 4096 * 4096 + w.toNat % 2 ^ k := by
  have hpow : 2 ^ k ≤ 2 ^ 12 := Nat.pow_le_pow_right (by omega) hk
  have hlow : w.toNat % 2 ^ k < 2 ^ 12 := Nat.lt_of_lt_of_le (Nat.mod_lt _ (by positivity)) hpow
  have hw := w.isLt
  have htop : w &&& 0xF000#16 = w >>> 12 <<< 12 := by
    ext b hb
    interval_cases b <;> simp
  have htopNat : (w &&& 0xF000#16).toNat = (w.toNat / 4096) <<< 12 := by
    simp only [htop, BitVec.toNat_shiftLeft, BitVec.toNat_ushiftRight, Nat.shiftLeft_eq, Nat.shiftRight_eq_div_pow]
    omega
  rw [BitVec.and_or_distrib_left, BitVec.toNat_or, htopNat, BitVec.toNat_and, BitVec.toNat_ofNat,
    Nat.mod_eq_of_lt (by omega), Nat.and_two_pow_sub_one_eq_mod, ← Nat.shiftLeft_add_eq_or_of_lt hlow, Nat.shiftLeft_eq]

theorem masked_all (w : Word) : w &&& 0xFFFF#16 = w := BitVec.and_allOnes

theorem masked_top (w : Word) : (w &&& 0xF000#16).toNat = w.toNat / 4096 * 4096 := by
  simpa [Nat.mod_one] using toNat_and_mask w (k := 0) (by decide)

theorem masked_topAndNibble (w : Word) : (w &&& 0xF00F#16).toNat = w.toNat / 4096 * 4096 + w.toNat % 16 :=
  toNat_and_mask w (k := 4) (by decide)

theorem masked_topAndByte (w : Word) : (w &&& 0xF0FF#16).toNat = w.toNat / 4096 * 4096 + w.toNat % 256 :=
  toNat_and_mask w (k := 8) (by decide)

/-- The fixed bits of the opcode map, row by row: the mask and the pattern (R64). -/
theorem fixedBits_opcodeTable : opcodeTable.map (fun r => (r.mask, r.pattern)) =
    [(0xFFFF#16, 0x00E0#16), (0xFFFF#16, 0x00EE#16), (0xF000#16, 0x0000#16), (0xF000#16, 0x1000#16),
     (0xF000#16, 0x2000#16), (0xF000#16, 0x3000#16), (0xF000#16, 0x4000#16), (0xF00F#16, 0x5000#16),
     (0xF000#16, 0x6000#16), (0xF000#16, 0x7000#16), (0xF00F#16, 0x8000#16), (0xF00F#16, 0x8001#16),
     (0xF00F#16, 0x8002#16), (0xF00F#16, 0x8003#16), (0xF00F#16, 0x8004#16), (0xF00F#16, 0x8005#16),
     (0xF00F#16, 0x8006#16), (0xF00F#16, 0x8007#16), (0xF00F#16, 0x800E#16), (0xF00F#16, 0x9000#16),
     (0xF000#16, 0xA000#16), (0xF000#16, 0xB000#16), (0xF000#16, 0xC000#16), (0xF000#16, 0xD000#16),
     (0xF0FF#16, 0xE09E#16), (0xF0FF#16, 0xE0A1#16), (0xF0FF#16, 0xF007#16), (0xF0FF#16, 0xF00A#16),
     (0xF0FF#16, 0xF015#16), (0xF0FF#16, 0xF018#16), (0xF0FF#16, 0xF01E#16), (0xF0FF#16, 0xF029#16),
     (0xF0FF#16, 0xF033#16), (0xF0FF#16, 0xF055#16), (0xF0FF#16, 0xF065#16)] := rfl

theorem refused_but_sys_iff (w : Word) : (∀ r ∈ opcodeTable, r.accepts w = true → r.pattern = 0) ↔
    ∀ p ∈ opcodeTable.map (fun r => (r.mask, r.pattern)), (w &&& p.1).toNat = p.2.toNat → p.2.toNat = 0 := by
  simp only [List.forall_mem_map, accepts_iff, BitVec.toNat_eq]
  rfl

/-- A word is in the table of R70 exactly when no row but SYS's, the one with pattern 0, accepts it. -/
theorem isUnknownWord_iff (w : Word) : isUnknownWord w ↔ ∀ r ∈ opcodeTable, r.accepts w = true → r.pattern = 0 := by
  have hw := w.isLt
  rw [refused_but_sys_iff, fixedBits_opcodeTable]
  simp only [List.forall_mem_cons, isUnknownWord, ne_eq, BitVec.toNat_eq, masked_all, masked_top, masked_topAndNibble,
    masked_topAndByte]
  generalize w.toNat = n at *
  generalize htop : n / 4096 = top at *
  have hnibble : top < 16 := by omega
  -- The table of R70 is by top nibble: with it fixed, each row asks for a low nibble, a low byte or nothing.
  interval_cases top <;> simp <;> omega

/-- A word outside the table is decoded by a row that is not SYS's; a word in it by SYS's row, if by any. -/
theorem isUnknownWord_iff_decodeWord (w : Word) :
    isUnknownWord w ↔ ∀ i, decodeWord w = .ok i → ∃ nnn, i = .sys nnn := by
  rw [isUnknownWord_iff]
  constructor
  · intro hunknown i hi
    refine eq_sys_of_pattern (hunknown (rowOf i) (rowOf_mem i) ?_)
    exact encode_of_decodeWord hi ▸ accepts_encode i
  · intro hdecode r hr haccepts
    by_contra hpattern
    have hsame := (encode_build hr w).1
    have hwf : (r.build w).wellFormed = true := by
      cases hi : r.build w with
      | sys nnn => exact absurd (by rw [← hsame, hi]; rfl) hpattern
      | _ => rfl
    have hi := decodeWord_encode hwf
    rw [encode_build_of_accepts hr haccepts] at hi
    obtain ⟨nnn, hsys⟩ := hdecode _ hi
    exact hpattern (by rw [← hsame, hsys]; rfl)

/-- Settles O5: a word of the table is refused by every row or is SYS, and halts either way. -/
theorem unknownWordsHaltAndAllOthersDecode : Obligations.UnknownWordsHaltAndAllOthersDecode := by
  constructor
  · intro w hknown
    rw [isUnknownWord_iff_decodeWord] at hknown
    push Not at hknown
    exact hknown
  · intro s w hrun hf hunknown
    refine ⟨s.raiseHalt .unknownOpcode w, ?_, haltedFrom_raiseHalt s _ _⟩
    cases hd : decodeWord w with
    | error e => exact step_of_unknown hrun hf hd
    | ok i =>
      obtain ⟨nnn, rfl⟩ := (isUnknownWord_iff_decodeWord w).mp hunknown i hd
      rw [step_of_decoded hrun hf hd, ← encode_of_decodeWord hd]
      rfl

end Sys2Proof.Machine
end

section
/-! SUPPORT. Control transfers and skips (40_control_flow.md R83 to R92, 44_timers_keys.md R154, R155): each writes PC, CALL and
RET the call stack too, and nothing else. -/

namespace Sys2Proof.Machine

/-- Settles O12: SYS is the halt. -/
theorem sysHaltsWithUnknownOpcode : Obligations.SysHaltsWithUnknownOpcode :=
  fun nnn s => ⟨_, rfl, haltedFrom_raiseHalt s .unknownOpcode (encode (.sys nnn))⟩

/-! ## Transfers -/

theorem jumpV0Target_toNat (nnn : Addr12) (v0 : Byte) : (jumpV0Target nnn v0).toNat = nnn.toNat + v0.toNat := by
  have := nnn.isLt
  have := v0.isLt
  simp only [jumpV0Target, BitVec.toNat_ofNat]
  omega

/-- Settles O14: JP V0 is the jump to a sum that 16 bits hold. -/
theorem jpV0AddsTheRegisterToTheAddress : Obligations.JpV0AddsTheRegisterToTheAddress :=
  fun nnn s => ⟨s.jump (jumpV0Target nnn (s.readV 0)), rfl, jumpV0Target_toNat nnn _, fun _ _ => rfl, keptExcept_jump s _⟩

/-- Settles O15: the stack is written at SP, or the check of SP halts first. -/
theorem callPushesTheReturnAddress : Obligations.CallPushesTheReturnAddress := by
  constructor
  · intro nnn s hroom
    refine ⟨_, exec_call_of_room hroom, rfl, fun j => ?_, addrOf_toNat nnn, fun _ _ => rfl,
      keptExcept_jump_of_callStack s _ _ _⟩
    simp only [State.jump_stack, Vector.getElem_set, eq_comm (a := j.val)]
  · intro nnn s hfull
    exact ⟨_, exec_call_of_full hfull, haltedFrom_raiseHalt s _ _⟩

/-- Settles O16: the count goes one down and PC to the entry below it, or the check of SP halts first. -/
theorem retPopsTheReturnAddress : Obligations.RetPopsTheReturnAddress := by
  constructor
  · intro s j hsp
    refine ⟨_, exec_ret_of_live (by omega), ?_, rfl, ?_, fun _ _ => rfl, keptExcept_jump_of_callStack s _ s.stack _⟩
    · simp only [State.jump_sp, hsp, Nat.add_sub_cancel]
    · simp only [State.jump_pc, hsp, Nat.add_sub_cancel]
  · intro s hempty
    exact ⟨_, exec_ret_of_empty hempty, haltedFrom_raiseHalt s _ _⟩

/-! ## Skips -/

/-- The whole effect of a skip on a condition: a skip is a jump to PC + 4 or to PC + 2. -/
theorem skipIf_when (s : State) {c : Bool} {P : Prop} [Decidable P] (h : c = true ↔ P) :
    (s.skipIf c).pc = (if P then s.pc + 4 else s.pc + 2) ∧ regsKeptExcept [] s (s.skipIf c) ∧
      keptExcept [.pc] s (s.skipIf c) :=
  ⟨by simp only [State.skipIf_pc, h], fun _ _ => rfl, keptExcept_jump s _⟩

/-- The whole effect of a skip on the opposite of a condition. -/
theorem skipIf_unless (s : State) {c : Bool} {P : Prop} [Decidable P] (h : c = true ↔ ¬P) :
    (s.skipIf c).pc = (if P then s.pc + 2 else s.pc + 4) ∧ regsKeptExcept [] s (s.skipIf c) ∧
      keptExcept [.pc] s (s.skipIf c) :=
  ite_not P (s.pc + 4) (s.pc + 2) ▸ skipIf_when s h

/-- Settles O18: SE skips when the two bytes are equal, SNE unless they are. -/
theorem registerSkipsTestTheirCondition : Obligations.RegisterSkipsTestTheirCondition :=
  fun _ _ _ s => ⟨⟨_, rfl, skipIf_when s beq_iff_eq⟩, ⟨_, rfl, skipIf_unless s bne_iff_ne⟩,
    ⟨_, rfl, skipIf_when s beq_iff_eq⟩, ⟨_, rfl, skipIf_unless s bne_iff_ne⟩⟩

/-- Settles O38: SKP skips when the key that Vx names is down, SKNP unless it is. -/
theorem keySkipsTestTheKeyLevel : Obligations.KeySkipsTestTheKeyLevel := by
  intro x k s hk
  have hdown : s.keyDown (keyOf (s.readV x)) = s.keys[k.val] := by simp only [State.keyDown, keyOf, hk]
  exact ⟨⟨_, rfl, skipIf_when s (by rw [hdown])⟩,
    ⟨_, rfl, skipIf_unless s (by rw [hdown, Bool.not_eq_true', Bool.not_eq_true])⟩⟩

end Sys2Proof.Machine
end

section
/-! SUPPORT. The arithmetic that writes VF and the free byte (41_load_alu.md R107 to R114): the registers written, and no part but
PC and the count of free bytes. -/

namespace Sys2Proof.Machine

/-! ## Frames of register writes -/

/-- The general registers are no `Part`, so a frame holds whatever they were before. -/
theorem keptExcept_of_regs {ps : List Part} {s t : State} {v : Vector Byte 16} (h : keptExcept ps { s with v := v } t) :
    keptExcept ps s t := by
  intro p hp
  have hkept := h p hp
  cases p with
  | i | pc | callStack | dt | st | memory | disp | keys | needsRedraw | runState | waitLatches | haltRecord | cfg
  | rndCount => exact hkept

theorem keptExcept_regs_pc (s : State) (v : Vector Byte 16) (pc : Word) :
    keptExcept [.pc] s { s with v := v, pc := pc } :=
  keptExcept_of_regs (keptExcept_jump { s with v := v } pc)

/-! ## A result and a flag -/

theorem carryFlag_toNat (a b : Byte) : (carryFlag a b).toNat = if a.toNat + b.toNat > 255 then 1 else 0 := by
  simp only [carryFlag, flagOf_toNat, decide_eq_true_eq]

theorem notBorrowFlag_toNat (a b : Byte) : (notBorrowFlag a b).toNat = if a.toNat ≥ b.toNat then 1 else 0 := by
  simp only [notBorrowFlag, flagOf_toNat, decide_eq_true_eq]

theorem toNat_sub_byte (a b : Byte) : (a - b).toNat = (a.toNat + 256 - b.toNat) % 256 := by
  have := b.isLt
  rw [BitVec.toNat_sub]
  congr 1
  omega

/-- The whole effect of an arithmetic instruction that writes its result and then the flag. -/
theorem writeResultThenFlag_advance_effect (s : State) (x : RegIdx) (r f : Byte) :
    (x ≠ VF → (s.writeResultThenFlag x r f).advance.readV x = r) ∧
      (s.writeResultThenFlag x r f).advance.readV VF = f ∧ (s.writeResultThenFlag x r f).advance.pc = s.pc + 2 ∧
      regsKeptExcept [x, VF] s (s.writeResultThenFlag x r f).advance ∧
      keptExcept [.pc] s (s.writeResultThenFlag x r f).advance := by
  refine ⟨fun hx => ?_, ?_, rfl, fun j hj => ?_, keptExcept_regs_pc s _ _⟩
  · simp only [State.advance_readV, State.readV_writeResultThenFlag, if_neg hx.symm, if_true]
  · simp only [State.advance_readV, State.readV_writeResultThenFlag, if_true]
  · simp only [List.mem_cons, List.not_mem_nil, or_false, not_or] at hj
    simp only [State.advance_readV, State.readV_writeResultThenFlag, if_neg (Ne.symm hj.1), if_neg (Ne.symm hj.2)]

/-- Settles O23: the result is the 8-bit sum and the flag its carry. -/
theorem addVxVyWritesSumAndCarry : Obligations.AddVxVyWritesSumAndCarry := by
  intro x y s
  obtain ⟨hx, hflag, hrest⟩ := writeResultThenFlag_advance_effect s x (s.readV x + s.readV y)
    (carryFlag (s.readV x) (s.readV y))
  exact ⟨_, rfl, fun hne => by rw [hx hne, BitVec.toNat_add], by rw [hflag, carryFlag_toNat], hrest⟩

/-- The whole effect of a subtraction of `b` from `a`. -/
theorem subtraction_effect (s : State) (x : RegIdx) (a b : Byte) {t : State}
    (ht : t = (s.writeResultThenFlag x (a - b) (notBorrowFlag a b)).advance) :
    (x ≠ VF → (t.readV x).toNat = (a.toNat + 256 - b.toNat) % 256) ∧
      (t.readV VF).toNat = (if a.toNat ≥ b.toNat then 1 else 0) ∧ t.pc = s.pc + 2 ∧
      regsKeptExcept [x, VF] s t ∧ keptExcept [.pc] s t := by
  obtain ⟨hx, hflag, hrest⟩ := writeResultThenFlag_advance_effect s x (a - b) (notBorrowFlag a b)
  subst ht
  exact ⟨fun hne => by rw [hx hne, toNat_sub_byte], by rw [hflag, notBorrowFlag_toNat], hrest⟩

/-- Settles O24: SUB subtracts Vy from Vx, SUBN Vx from Vy. -/
theorem subtractionsWriteDifferenceAndNotBorrow : Obligations.SubtractionsWriteDifferenceAndNotBorrow :=
  fun x y s => ⟨⟨_, rfl, subtraction_effect s x (s.readV x) (s.readV y) rfl⟩,
    ⟨_, rfl, subtraction_effect s x (s.readV y) (s.readV x) rfl⟩⟩

/-- The flag of taking `b` off a wrapped sum `a + b` again (R114). -/
theorem notBorrowFlag_add_eq_one_iff (a b : Byte) :
    notBorrowFlag (a + b) b = 1 ↔ a.toNat + b.toNat ≤ 255 ∨ b = 0 := by
  have ha := a.isLt
  have hb := b.isLt
  have hzero : b = 0 ↔ b.toNat = 0 := BitVec.toNat_eq
  rw [notBorrowFlag, flagOf_eq_one_iff, decide_eq_true_eq, BitVec.toNat_add, hzero]
  omega

/-- Settles O27: SUB finds the sum in Vx and the same Vy, so it takes off what ADD put on. -/
theorem addThenSubRestoresTheRegister : Obligations.AddThenSubRestoresTheRegister := by
  intro x y s hxy hx hy
  obtain ⟨hsum, -, -, hregs, -⟩ := writeResultThenFlag_advance_effect s x (s.readV x + s.readV y)
    (carryFlag (s.readV x) (s.readV y))
  have hty := hregs y (by simp [hxy.symm, hy])
  generalize ht : (s.writeResultThenFlag x (s.readV x + s.readV y) (carryFlag (s.readV x) (s.readV y))).advance = t
    at hsum hregs hty
  obtain ⟨hdiff, hflag, -, hregs', -⟩ := writeResultThenFlag_advance_effect t x (t.readV x - t.readV y)
    (notBorrowFlag (t.readV x) (t.readV y))
  rw [hsum hx, hty] at hdiff hflag hregs'
  have hback := (hdiff hx).trans (BitVec.add_sub_cancel (s.readV x) (s.readV y))
  refine ⟨t, _, congrArg Host.Outcome.next ht, ?_, hback, ?_, fun j hj => ?_, ?_⟩
  · rw [← hsum hx, ← hty]
    rfl
  · rw [hflag, notBorrowFlag_add_eq_one_iff]
  · by_cases hj' : j = x
    · exact hj' ▸ hback
    · have hout : j ∉ [x, VF] := by simpa [hj'] using hj
      rw [hregs' j hout, hregs j hout]
  · subst ht
    exact keptExcept_regs_pc s _ _

/-! ## Shifts -/

/-- The whole effect of a shift of the byte `a`, which stands in Vx first, with the flag written before the result. -/
theorem shift_advance_effect (s : State) (x y : RegIdx) {a : Byte} (ha : a = s.shiftOperand x y) (f : Byte) (g : Byte → Byte)
    {t : State} (ht : t = ((s.shiftSource x y).writeFlagThenResult x f g).advance) :
    (x ≠ VF → t.readV x = g a ∧ t.readV VF = f) ∧ (x = VF → t.readV VF = g f) ∧ t.pc = s.pc + 2 ∧
      regsKeptExcept [x, VF] s t ∧ keptExcept [.pc] s t := by
  subst ha ht
  refine ⟨fun hx => ?_, ?_, rfl, fun j hj => ?_, keptExcept_regs_pc s _ _⟩
  · simp [State.readV_writeFlagThenResult, State.readV_shiftSource, hx, hx.symm]
  · rintro rfl
    simp [State.readV_writeFlagThenResult]
  · simp only [List.mem_cons, List.not_mem_nil, or_false, not_or] at hj
    simp only [State.advance_readV, State.readV_writeFlagThenResult, State.readV_shiftSource, if_neg (Ne.symm hj.1),
      if_neg (Ne.symm hj.2)]

theorem toNat_shiftRight_one (a : Byte) : (a >>> 1).toNat = a.toNat / 2 := by
  rw [BitVec.toNat_ushiftRight, Nat.shiftRight_eq_div_pow]

theorem toNat_shiftLeft_one (a : Byte) : (a <<< 1).toNat = a.toNat * 2 % 256 := by
  rw [BitVec.toNat_shiftLeft, Nat.shiftLeft_eq]

/-- Settles O25: where x = F the result is the shift of the flag, which is 0 or 1. -/
theorem shiftsDropOneBitIntoVf : Obligations.ShiftsDropOneBitIntoVf := by
  intro x y s a ha
  rw [← State.shiftOperand_eq] at ha
  have hsource : (s.shiftSource x y).readV x = a := by rw [State.readV_shiftSource, if_pos rfl, ha]
  have hlt := a.isLt
  constructor
  · obtain ⟨hne, heq, hrest⟩ := shift_advance_effect s x y ha (lowBitFlag a) (fun b => b >>> 1) rfl
    refine ⟨_, by rw [← hsource]; rfl, fun hx => ?_, fun hx => ?_, hrest⟩
    · rw [(hne hx).1, (hne hx).2, toNat_shiftRight_one, lowBitFlag_toNat]
      exact ⟨rfl, rfl⟩
    · rw [heq hx, toNat_shiftRight_one, lowBitFlag_toNat]
      omega
  · obtain ⟨hne, heq, hrest⟩ := shift_advance_effect s x y ha (highBitFlag a) (fun b => b <<< 1) rfl
    refine ⟨_, by rw [← hsource]; rfl, fun hx => ?_, fun hx => ?_, hrest⟩
    · rw [(hne hx).1, (hne hx).2, toNat_shiftLeft_one, highBitFlag_toNat]
      exact ⟨rfl, rfl⟩
    · rw [heq hx, toNat_shiftLeft_one, highBitFlag_toNat]
      omega

/-! ## The free byte -/

theorem keptExcept_random (s : State) (r : Byte) (x : RegIdx) (kk : Byte) : keptExcept [.rndCount] s (s.random r x kk) := by
  intro p hp
  cases p with
  | rndCount => simp at hp
  | callStack | waitLatches => exact ⟨rfl, rfl⟩
  | haltRecord => exact ⟨rfl, rfl, rfl⟩
  | memory => exact s.random_memByte r x kk
  | i | pc | dt | st | disp | keys | needsRedraw | runState | cfg => rfl

theorem regsKeptExcept_random (s : State) (r : Byte) (x : RegIdx) (kk : Byte) : regsKeptExcept [x] s (s.random r x kk) :=
  regsKeptExcept_writeV s x (r &&& kk)

/-- Settles O26: RND is the assignment of the masked byte and the count of one more. -/
theorem rndMasksAFreeByte : Obligations.RndMasksAFreeByte := by
  intro x kk s
  have hv : (s.random (Config.rnd s.rndCount) x kk).advance.readV x = Config.rnd s.rndCount &&& kk :=
    s.readV_writeV_self x _
  refine ⟨_, rfl, hv, fun b hb => ?_, rfl, rfl, regsKeptExcept_random s _ x kk,
    keptExcept_advance (keptExcept_random s _ x kk)⟩
  rw [hv, BitVec.getLsbD_and, hb, Bool.and_false]

end Sys2Proof.Machine
end

section
/-! SUPPORT. The address register and memory (42_index_memory.md R122 to R130), DRW (43_display.md R143, R144), LD ST,Vx and the
entry of the key wait (44_timers_keys.md R152, R157): values and frames. -/

namespace Sys2Proof.Machine

/-! ## The address register -/

theorem toNat_add_byte (w : Word) (b : Byte) : (w + b.setWidth 16).toNat = (w.toNat + b.toNat) % 65536 := by
  rw [BitVec.toNat_add, BitVec.toNat_setWidth_of_le (by decide)]

/-- The largest glyph address, 432 + 5 * 255, is below 65536. -/
theorem glyphAddr_toNat (c : Config) (b : Byte) : (glyphAddr c b).toNat = c.fontBase.val + 5 * b.toNat := by
  have := c.fontBase.isLt
  have := b.isLt
  simp only [glyphAddr, glyphSize, BitVec.toNat_ofNat]
  omega

/-- Settles O29: both are assignments to I. -/
theorem addressRegisterArithmetic : Obligations.AddressRegisterArithmetic :=
  fun x s => ⟨⟨_, rfl, toNat_add_byte s.i (s.readV x), setI_advance_effect s _⟩,
    ⟨_, rfl, glyphAddr_toNat s.cfg (s.readV x), setI_advance_effect s _⟩⟩

/-! ## Stores and loads at I -/

theorem keptExcept_storeBytes (s : State) (a : Nat) (bs : List Byte) : keptExcept [.memory] s (s.storeBytes a bs) := by
  intro p hp
  cases p with
  | memory => simp at hp
  | callStack | waitLatches => exact ⟨rfl, rfl⟩
  | haltRecord => exact ⟨rfl, rfl, rfl⟩
  | i | pc | dt | st | disp | keys | needsRedraw | runState | cfg | rndCount => rfl

theorem memoryKeptOutside_storeBytes {s : State} (hwf : Memory.wf s.cfg s.mem) {a len : Nat} {bs : List Byte}
    (hlen : bs.length = len) (hfit : a + len ≤ memSize) : memoryKeptOutside a len s (s.storeBytes a bs) := by
  subst hlen
  intro b hb
  rw [State.memByte_storeBytes hwf a bs hfit, dif_neg hb]

/-- What an instruction that stores at I leaves as it was, its PC being 2 further. -/
theorem storeBytes_advance_frame {s : State} (hwf : Memory.wf s.cfg s.mem) {n : Nat} {bs : List Byte}
    (hlen : bs.length = n + 1) (hfit : s.dataAddr n ≤ 4095) :
    memoryKeptOutside (s.dataAddr 0) (n + 1) s (s.storeBytes (s.dataAddr 0) bs).advance ∧
      (s.storeBytes (s.dataAddr 0) bs).advance.pc = s.pc + 2 ∧
      regsKeptExcept [] s (s.storeBytes (s.dataAddr 0) bs).advance ∧
      keptExcept [.pc, .memory] s (s.storeBytes (s.dataAddr 0) bs).advance := by
  refine ⟨memoryKeptOutside_storeBytes hwf hlen ?_, rfl, fun _ _ => rfl, keptExcept_advance (keptExcept_storeBytes s _ _)⟩
  simp only [State.dataAddr, memSize] at hfit ⊢
  omega

/-- Settles O30: digit number j stands at I + j, and the hundreds digit needs no remainder. -/
theorem ldBStoresTheDecimalDigits : Obligations.LdBStoresTheDecimalDigits := by
  intro x s hwf hfit
  have hdigit := fun j : Fin 3 => State.memByte_store_bcdDigits hwf (s.readV x) hfit (Eq.refl (s.dataAddr j.val))
  have hlt := (s.readV x).isLt
  refine ⟨_, exec_ldBVx_of_inRange (State.inRange_of_dataAddr_le hfit), (hdigit 0).trans ?_, hdigit 1, (hdigit 2).trans ?_,
    storeBytes_advance_frame hwf (length_bcdDigits _) hfit⟩
  · simp only [Fin.val_zero, Nat.sub_zero, Nat.reducePow]
    omega
  · simp only [Fin.val_two, Nat.sub_self, Nat.pow_zero, Nat.div_one]

/-- The registers after LD Vx,[I]: V0 to Vx from memory, the others as before. -/
theorem readV_loadRegs (s : State) (x j : RegIdx) :
    State.readV { s with v := loadRegs s.cfg s.mem (s.dataAddr 0) (x.val + 1) s.v } j =
      if j ≤ x then s.memByte (s.dataAddr j.val) else s.readV j := by
  simp only [State.readV, getElem_loadRegs, Nat.lt_succ_iff, Fin.val_fin_le]
  rfl

/-- Settles O31: the store writes the run V0 to Vx, the load reads it back. -/
theorem blockTransfersMoveV0ToVx : Obligations.BlockTransfersMoveV0ToVx := by
  intro x s hfit
  have hin := State.inRange_of_dataAddr_le hfit
  constructor
  · intro hwf
    exact ⟨_, exec_ldMemVx_of_inRange hin, fun j hj => State.memByte_store_regRun hwf hfit hj rfl,
      storeBytes_advance_frame hwf (s.length_regRun x) hfit⟩
  · exact ⟨_, exec_ldVxMem_of_inRange hin, readV_loadRegs s x, rfl, keptExcept_regs_pc s _ _⟩

/-! ## DRW -/

theorem regsKeptExcept_drawSprite (s : State) (x y : RegIdx) (n : Fin 16) : regsKeptExcept [VF] s (s.drawSprite x y n) :=
  regsKeptExcept_writeV s VF _

theorem keptExcept_drawSprite (s : State) (x y : RegIdx) (n : Fin 16) :
    keptExcept [.disp, .needsRedraw] s (s.drawSprite x y n) :=
  keptExcept_of_regs (keptExcept_redraw (s.writeV VF _) _)

theorem flagOf_eq_zero_or_one (b : Bool) : flagOf b = 0 ∨ flagOf b = 1 := by
  cases b with
  | false => exact .inl rfl
  | true => exact .inr rfl

/-- Settles O34: DRW flips the pixels the sprite covers, and VF is the flag of the collision. -/
theorem drwXorsTheSpriteAndReportsCollision : Obligations.DrwXorsTheSpriteAndReportsCollision := by
  intro x y n s hfit
  obtain ⟨collision, hflips, hVF⟩ := s.drawSprite_flips x y n
  refine ⟨_, exec_drwVxVyN_of_inRange ((inRange_iff _ _).mpr hfit), hflips.flipped, hflips.kept, ?_, ?_, rfl, rfl,
    regsKeptExcept_drawSprite s x y n, keptExcept_advance (keptExcept_drawSprite s x y n)⟩
  · rw [State.advance_readV, hVF]
    exact flagOf_eq_zero_or_one collision
  · rw [State.advance_readV, hVF, flagOf_eq_one_iff]
    simpa [State.spriteHits] using hflips.collided

/-! ## The sound timer and the key wait -/

/-- LD ST,Vx is another sound timer beside the same redraw signal. -/
theorem keptExcept_setSt (s : State) (b : Byte) : keptExcept [.st] s (s.setSt b) := by
  intro p hp
  by_cases hredraw : p = .needsRedraw
  · subst hredraw
    exact s.setSt_needsRedraw b
  · exact keptExcept_withSignals s b s.needsRedraw p (by simpa [hredraw] using hp)

theorem State.sound_iff (s : State) : s.sound = true ↔ s.st ≠ 0 := bne_iff_ne

/-- Settles O37: the sound is read off ST. -/
theorem soundTimerWriteDrivesTheSound : Obligations.SoundTimerWriteDrivesTheSound :=
  fun x s => ⟨(s.setSt (s.readV x)).advance, rfl, rfl, State.sound_iff _, rfl, fun _ _ => rfl,
    keptExcept_advance (keptExcept_setSt s _)⟩

theorem keptExcept_beginWait (s : State) (x : RegIdx) : keptExcept [.waitLatches, .runState] s (s.beginWait x) := by
  intro p hp
  cases p with
  | waitLatches | runState => simp at hp
  | callStack => exact ⟨rfl, rfl⟩
  | haltRecord => exact ⟨rfl, rfl, rfl⟩
  | memory => exact s.beginWait_memByte x
  | i | pc | dt | st | disp | keys | needsRedraw | cfg | rndCount => rfl

/-- Settles O39: entering the wait sets the latches and the run state, whatever the keys are. -/
theorem keyWaitBeginsWithoutCompleting : Obligations.KeyWaitBeginsWithoutCompleting :=
  fun x s => ⟨s.beginWait x, rfl, rfl, rfl, rfl, fun _ _ => rfl, keptExcept_beginWait s x⟩

end Sys2Proof.Machine
end

section
/-! SUPPORT. What an instruction can do, said once for all of them: it halts on its condition and does nothing else, or it has no
condition to halt on and writes only the registers and parts that are its own, PC as its class says (40_control_flow.md R81,
60_exceptions.md R171). -/

/-! ## The cause an instruction can raise -/

namespace Sys2Proof

open Sys2Proof.Machine

/-- The one cause that an instruction can raise, whether or not its condition can hold (60_exceptions.md R171). -/
def Instr.haltCause (i : Instr) : HaltCause :=
  match i with
  | .sys _ => .unknownOpcode
  | .call _ => .stackOverflow
  | .ret => .stackUnderflow
  | _ => .dataOutOfBounds

end Sys2Proof

namespace Sys2Proof.Machine

theorem eq_haltCause_of_haltCondition {c : HaltCause} {i : Instr} {s : State} (h : haltCondition c i s) :
    c = i.haltCause := by
  cases c with
  | dataOutOfBounds =>
    obtain ⟨hlen, -⟩ := h
    cases i with
    | sys | call | ret => simp [Instr.dataLen] at hlen
    | _ => rfl
  | stackOverflow =>
    obtain ⟨⟨nnn, rfl⟩, -⟩ := h
    rfl
  | stackUnderflow =>
    obtain ⟨rfl, -⟩ := h
    rfl
  | unknownOpcode =>
    obtain ⟨nnn, rfl⟩ := h
    rfl
  | none | fetchOutOfBounds | stopRequested | romTooLarge => exact h.elim

theorem inRange_eq_false_iff (a len : Nat) : inRange a len = false ↔ len > 0 ∧ a + len - 1 > 4095 := by
  simp only [inRange, Bool.not_eq_false', decide_eq_true_eq]

/-! ## The two ends of an instruction -/

/-- An instruction that does not halt: what it may have written, PC by its class, and a machine that runs on or waits. -/
structure Proceeds (i : Instr) (s t : State) : Prop where
  noHalt : ¬haltCondition i.haltCause i s
  regs : ∀ j, i.writesReg j = false → t.readV j = s.readV j
  parts : ∀ p : Part, p.writtenBy i = false → p.kept s t
  pc : s.pc.toNat ≤ 4094 → t.pc.toNat = i.pcAfter s
  runs : t.runState = s.runState ∨ t.runState = .awaitingKey

/-- What an instruction can answer. -/
inductive ExecEnd (i : Instr) (s : State) : Result → Prop where
  | halts (h : haltCondition i.haltCause i s) : ExecEnd i s (.next (s.raiseHalt i.haltCause (encode i)))
  | proceeds {t : State} (h : Proceeds i s t) : ExecEnd i s (.next t)

theorem regs_of_regsKeptExcept {i : Instr} {xs : List RegIdx} {s t : State} (h : regsKeptExcept xs s t)
    (hxs : ∀ j ∈ xs, i.writesReg j = true := by simp [Instr.writesReg]) :
    ∀ j, i.writesReg j = false → t.readV j = s.readV j :=
  fun j hj => h j fun hmem => by simp [hxs j hmem] at hj

theorem parts_of_keptExcept {i : Instr} {ps : List Part} {s t : State} (h : keptExcept ps s t)
    (hps : ps.all (fun p => p.writtenBy i) = true := by rfl) : ∀ p : Part, p.writtenBy i = false → p.kept s t :=
  fun p hp => h p fun hmem => by simp [List.all_eq_true.mp hps p hmem] at hp

/-- PC + 2 and PC + 4 do not wrap from a fetchable PC (log 8). -/
theorem State.pc_skip_toNat {s : State} (h : s.pc.toNat ≤ 4094) (c : Bool) :
    (s.skipIf c).pc.toNat = s.pc.toNat + if c then 4 else 2 := by
  cases c with
  | false =>
    show (s.pc + 2).toNat = s.pc.toNat + 2
    bv_omega
  | true =>
    show (s.pc + 4).toNat = s.pc.toNat + 4
    bv_omega

namespace Proceeds

variable {i : Instr} {s : State}

/-- A sequential instruction, from what it keeps. -/
theorem sequential {t : State} {ps : List Part} (hregs : ∀ j, i.writesReg j = false → t.readV j = s.readV j)
    (hparts : keptExcept ps s t) (hno : ¬haltCondition i.haltCause i s := by
      simp [Instr.haltCause, haltCondition, Instr.dataLen])
    (hpc : t.pc = s.pc + 2 := by rfl) (hrun : t.runState = s.runState := by rfl)
    (hps : ps.all (fun p => p.writtenBy i) = true := by rfl) (hclass : i.pcAfter s = s.pc.toNat + 2 := by rfl) :
    Proceeds i s t where
  noHalt := hno
  regs := hregs
  parts := parts_of_keptExcept hparts hps
  pc := fun h => by
    rw [hclass, hpc]
    exact State.pc_skip_toNat h false
  runs := .inl hrun

/-- A skip, from its condition. -/
theorem skipIf (hclass : i.pcAfter s = s.pc.toNat + if i.skips s then 4 else 2 := by rfl)
    (hps : [Part.pc].all (fun p => p.writtenBy i) = true := by rfl)
    (hno : ¬haltCondition i.haltCause i s := by simp [Instr.haltCause, haltCondition, Instr.dataLen]) :
    Proceeds i s (s.skipIf (i.skips s)) where
  noHalt := hno
  regs := fun _ _ => rfl
  parts := parts_of_keptExcept (keptExcept_jump s _) hps
  pc := fun h => by rw [hclass, State.pc_skip_toNat h]
  runs := .inl rfl

/-- A transfer to `target`, with the call stack written or not. -/
theorem transfer {n : Fin 17} {stack : Vector Word stackDepth} {target : Word}
    (htarget : target.toNat = i.pcAfter s) (hno : ¬haltCondition i.haltCause i s)
    (hparts : ∀ p : Part, p.writtenBy i = false → p.kept s (State.jump { s with stack := stack, sp := n } target)) :
    Proceeds i s (State.jump { s with stack := stack, sp := n } target) where
  noHalt := hno
  regs := fun _ _ => rfl
  parts := hparts
  pc := fun _ => htarget
  runs := .inl rfl

end Proceeds

/-- An instruction with a data access, from what its effect keeps. -/
theorem execEnd_withDataRange {i : Instr} {s : State} {f : State → State} {ps : List Part}
    (hregs : ∀ j, i.writesReg j = false → (f s).readV j = s.readV j) (hparts : keptExcept ps s (f s).advance)
    (hcause : i.haltCause = .dataOutOfBounds := by rfl) (hpc : (f s).pc = s.pc := by rfl)
    (hrun : (f s).runState = s.runState := by rfl) (hps : ps.all (fun p => p.writtenBy i) = true := by rfl)
    (hclass : i.pcAfter s = s.pc.toNat + 2 := by rfl) :
    ExecEnd i s (s.withDataRange i.dataLen (encode i) f) := by
  have hcond : inRange s.i.toNat i.dataLen = false ↔ haltCondition i.haltCause i s := by
    rw [inRange_eq_false_iff, hcause]
    rfl
  obtain ⟨hin, h⟩ | ⟨hout, h⟩ := s.withDataRange_cases i.dataLen (encode i) f
  · have hno : ¬haltCondition i.haltCause i s := by simp [← hcond, hin]
    have hnext : (f s).advance.pc = s.pc + 2 := by rw [State.advance_pc, hpc]
    exact h ▸ .proceeds (.sequential hregs hparts hno hnext hrun hps hclass)
  · exact h ▸ hcause ▸ .halts (hcond.mp hout)

theorem execEnd_call (nnn : Addr12) (s : State) : ExecEnd (.call nnn) s (exec (.call nnn) s) := by
  by_cases hroom : s.sp.val < 16
  · rw [exec_call_of_room hroom]
    have hno : ¬haltCondition .stackOverflow (.call nnn) s := fun h => by
      obtain ⟨-, hfull⟩ := h
      omega
    exact .proceeds (.transfer (addrOf_toNat nnn) hno (parts_of_keptExcept (keptExcept_jump_of_callStack s _ _ _)))
  · have hfull : s.sp.val = 16 := by omega
    exact exec_call_of_full hfull ▸ .halts ⟨⟨nnn, rfl⟩, hfull⟩

theorem execEnd_ret (s : State) : ExecEnd .ret s (exec .ret s) := by
  by_cases hempty : s.sp.val = 0
  · exact exec_ret_of_empty hempty ▸ .halts ⟨rfl, hempty⟩
  · rw [exec_ret_of_live hempty]
    have hno : ¬haltCondition .stackUnderflow .ret s := fun h => hempty h.2
    exact .proceeds (.transfer rfl hno (parts_of_keptExcept (keptExcept_jump_of_callStack s _ s.stack _)))

theorem execEnd_jp (nnn : Addr12) (s : State) : ExecEnd (.jp nnn) s (exec (.jp nnn) s) :=
  .proceeds (.transfer (addrOf_toNat nnn) (by simp [Instr.haltCause, haltCondition, Instr.dataLen])
    (parts_of_keptExcept (keptExcept_jump s _)))

theorem execEnd_jpV0Addr (nnn : Addr12) (s : State) : ExecEnd (.jpV0Addr nnn) s (exec (.jpV0Addr nnn) s) :=
  .proceeds (.transfer (jumpV0Target_toNat nnn _) (by simp [Instr.haltCause, haltCondition, Instr.dataLen])
    (parts_of_keptExcept (keptExcept_jump s _)))

theorem execEnd_ldVxK (x : RegIdx) (s : State) : ExecEnd (.ldVxK x) s (exec (.ldVxK x) s) :=
  .proceeds
    { noHalt := by simp [Instr.haltCause, haltCondition, Instr.dataLen]
      regs := fun _ _ => rfl
      parts := parts_of_keptExcept (keptExcept_beginWait s x)
      pc := fun _ => rfl
      runs := .inr rfl }

/-- Every instruction, by its class and by what it writes before PC is advanced. -/
theorem execEnd_exec (i : Instr) (s : State) : ExecEnd i s (exec i s) := by
  cases i with
  | sys nnn => exact .halts ⟨nnn, rfl⟩
  | call nnn => exact execEnd_call nnn s
  | ret => exact execEnd_ret s
  | jp nnn => exact execEnd_jp nnn s
  | jpV0Addr nnn => exact execEnd_jpV0Addr nnn s
  | seVxKk | sneVxKk | seVxVy | sneVxVy | skpVx | sknpVx => exact .proceeds .skipIf
  | ldVxK x => exact execEnd_ldVxK x s
  | ldVxKk | addVxKk | ldVxVy | orVxVy | andVxVy | xorVxVy | ldVxDt =>
    obtain ⟨-, -, hregs, hparts⟩ := writeV_advance_effect s _ _
    exact .proceeds (.sequential (regs_of_regsKeptExcept hregs) hparts)
  | addVxVy | subVxVy | subnVxVy =>
    obtain ⟨-, -, -, hregs, hparts⟩ := writeResultThenFlag_advance_effect s _ _ _
    exact .proceeds (.sequential (regs_of_regsKeptExcept hregs) hparts)
  | shrVx x y | shlVx x y =>
    obtain ⟨-, -, -, hregs, hparts⟩ := shift_advance_effect s x y rfl _ _ rfl
    exact .proceeds (.sequential (regs_of_regsKeptExcept hregs) hparts)
  | rndVxKk x kk =>
    exact .proceeds (.sequential (regs_of_regsKeptExcept (regsKeptExcept_random s _ x kk))
      (keptExcept_advance (keptExcept_random s _ x kk)))
  | ldIAddr | addIVx | ldFVx =>
    exact .proceeds (.sequential (fun _ _ => rfl) (keptExcept_advance (keptExcept_setI s _)))
  | ldDtVx => exact .proceeds (.sequential (fun _ _ => rfl) (keptExcept_advance (keptExcept_setDt s _)))
  | ldStVx => exact .proceeds (.sequential (fun _ _ => rfl) (keptExcept_advance (keptExcept_setSt s _)))
  | cls => exact .proceeds (.sequential (fun _ _ => rfl) (keptExcept_advance (keptExcept_redraw s _)))
  | drwVxVyN x y n =>
    simp only [exec, execDrwVxVyN]
    exact execEnd_withDataRange (regs_of_regsKeptExcept (regsKeptExcept_drawSprite s x y n))
      (keptExcept_advance (keptExcept_drawSprite s x y n))
  | ldBVx | ldMemVx =>
    simp only [exec, execLdBVx, execLdMemVx]
    exact execEnd_withDataRange (fun _ _ => rfl) (keptExcept_advance (keptExcept_storeBytes s _ _))
  | ldVxMem x =>
    simp only [exec, execLdVxMem]
    refine execEnd_withDataRange (fun j hj => ?_) (keptExcept_regs_pc s _ _)
    have hout : ¬j ≤ x := by simpa [Instr.writesReg] using hj
    rw [readV_loadRegs, if_neg hout]

/-! ## What follows for every instruction -/

/-- The whole of what an instruction can do. -/
theorem exec_cases (i : Instr) (s : State) :
    (haltCondition i.haltCause i s ∧ exec i s = .next (s.raiseHalt i.haltCause (encode i))) ∨
      ∃ t, exec i s = .next t ∧ Proceeds i s t := by
  have hend := execEnd_exec i s
  generalize exec i s = r at hend ⊢
  cases hend with
  | halts hc => exact .inl ⟨hc, rfl⟩
  | proceeds hp => exact .inr ⟨_, rfl, hp⟩

theorem exec_inversion {i : Instr} {s t : State} (h : exec i s = .next t) :
    t = s.raiseHalt i.haltCause (encode i) ∨ Proceeds i s t := by
  have hend := execEnd_exec i s
  rw [h] at hend
  cases hend with
  | halts => exact .inl rfl
  | proceeds hp => exact .inr hp

theorem exec_of_haltCondition {c : HaltCause} {i : Instr} {s : State} (hc : haltCondition c i s) :
    exec i s = .next (s.raiseHalt c (encode i)) := by
  obtain rfl := eq_haltCause_of_haltCondition hc
  obtain ⟨-, h⟩ | ⟨t, -, hp⟩ := exec_cases i s
  · exact h
  · exact absurd hc hp.noHalt

theorem exec_of_no_haltCondition {i : Instr} {s : State} (hno : ∀ c, ¬haltCondition c i s) :
    ∃ t, exec i s = .next t ∧ Proceeds i s t :=
  (exec_cases i s).resolve_left fun h => hno _ h.1

/-- Settles O8: an instruction that proceeds leaves the PC of its class. -/
theorem programCounterFollowsItsClass : Obligations.ProgramCounterFollowsItsClass := by
  intro i s t hpc ht hrun
  rcases exec_inversion ht with rfl | hp
  · exact absurd (s.raiseHalt_runState _ _) hrun
  · exact hp.pc hpc

/-- Settles O32: the last data byte past 4095 is the condition of DataOutOfBounds. -/
theorem dataOutOfBoundsHaltsWithoutEffect : Obligations.DataOutOfBoundsHaltsWithoutEffect := by
  intro i s hlen hlast
  have hcond : haltCondition .dataOutOfBounds i s := ⟨hlen, by simp only [State.dataAddr] at hlast; omega⟩
  exact ⟨_, exec_of_haltCondition hcond, haltedFrom_raiseHalt s _ _⟩

theorem haltRecord_not_writtenBy (i : Instr) : Part.haltRecord.writtenBy i = false := by
  cases i <;> rfl

/-- Settles O49: the step is the instruction, which halts on its condition and proceeds without one. -/
theorem instructionsHaltExactlyOnTheirConditions : Obligations.InstructionsHaltExactlyOnTheirConditions := by
  intro s w i hrun hf hd
  rw [step_of_decoded hrun hf hd]
  constructor
  · intro c hc
    exact ⟨_, exec_of_haltCondition hc, encode_of_decodeWord hd ▸ haltedFrom_raiseHalt s c _⟩
  · intro hno
    obtain ⟨t, ht, hp⟩ := exec_of_no_haltCondition hno
    have hruns : t.runState ≠ .halted := by rcases hp.runs with h | h <;> simp [h, hrun]
    exact ⟨t, ht, hruns, hp.parts .haltRecord (haltRecord_not_writtenBy i)⟩

/-- Settles O51: a halt writes no register, and an instruction that proceeds only its own. -/
theorem instructionsWriteOnlyTheirRegisters : Obligations.InstructionsWriteOnlyTheirRegisters := by
  intro i s t j ht hj
  rcases exec_inversion ht with rfl | hp
  · rfl
  · exact hp.regs j hj

/-- Settles O52: a halt writes the run state and the halt record only, and an instruction that proceeds only its own parts. -/
theorem eachPartIsWrittenOnlyByItsInstructions : Obligations.EachPartIsWrittenOnlyByItsInstructions := by
  intro p i s t ht hp hrun
  rcases exec_inversion ht with rfl | hproceeds
  · obtain ⟨hhalted, -, -, -, -, hkept⟩ := haltedFrom_raiseHalt s i.haltCause (encode i)
    refine hkept p fun hmem => ?_
    simp only [List.mem_cons, List.not_mem_nil, or_false] at hmem
    exact hrun hmem hhalted
  · exact hproceeds.parts p hp

end Sys2Proof.Machine
end

section
/-! SUPPORT. The events (60_exceptions.md R174 to R192): every sequence of them completes, the key wait ends as R158 and R192 say,
the timers count down (R184), and only Reset leaves Halted (R174). -/

namespace Sys2Proof.Machine

/-! ## Frames -/

theorem keptExcept_refl (ps : List Part) (s : State) : keptExcept ps s s := by
  intro p _
  cases p with
  | callStack | waitLatches => exact ⟨rfl, rfl⟩
  | haltRecord => exact ⟨rfl, rfl, rfl⟩
  | memory => exact fun _ => rfl
  | pc | i | dt | st | disp | keys | needsRedraw | runState | cfg | rndCount => rfl

theorem keptExcept_mono {ps qs : List Part} {s t : State} (h : keptExcept ps s t) (hsub : ps ⊆ qs) : keptExcept qs s t :=
  fun p hp => h p fun hmem => hp (hsub hmem)

/-! ## Every event answers a next state -/

theorem step_answers (s : State) : ∃ t, step s = .next t := by
  cases hr : s.runState with
  | halted => exact ⟨_, step_of_halted hr⟩
  | awaitingKey => exact ⟨_, step_of_awaitingKey hr⟩
  | running =>
    cases hf : s.fetchWord? with
    | none => exact ⟨_, step_of_noFetch hr hf⟩
    | some w =>
      cases hd : decodeWord w with
      | error e => exact ⟨_, step_of_unknown hr hf hd⟩
      | ok i =>
        rw [step_of_decoded hr hf hd]
        obtain ⟨-, h⟩ | ⟨t, h, -⟩ := exec_cases i s
        · exact ⟨_, h⟩
        · exact ⟨t, h⟩

theorem applyEvent_answers (e : Event) (s : State) : ∃ t, applyEvent e s = .next t := by
  cases e with
  | step => exact step_answers s
  | reset | tick | keySet | redrawAck | stop => exact ⟨_, rfl⟩

/-- Settles O9, by induction on the sequence of events. -/
theorem everyEventSequenceCompletes : Obligations.EveryEventSequenceCompletes := by
  intro es
  induction es with
  | nil => exact fun s => ⟨s, rfl⟩
  | cons e rest ih =>
    intro s
    obtain ⟨u, hu⟩ := applyEvent_answers e s
    simpa only [runEvents, hu] using ih u

/-! ## The key wait -/

theorem State.rising_iff (s : State) (k : KeyIdx) : s.rising k = true ↔ pressEdge s k := by
  simp only [State.rising, pressEdge, Bool.and_eq_true, Bool.not_eq_true']

/-- A poll that finds press edges takes the least of them. -/
theorem State.pollKey_of_least {s : State} {k : KeyIdx} (hk : pressEdge s k) (hleast : ∀ j, pressEdge s j → k ≤ j) :
    s.pollKey = { (s.writeV s.waitReg (BitVec.ofNat 8 k.val)).advance with runState := .running } := by
  obtain ⟨j, hj, hmin, hpoll⟩ | ⟨hnone, -⟩ := s.pollKey_cases
  · have hjk : j = k := le_antisymm (hmin k ((s.rising_iff k).mpr hk)) (hleast j ((s.rising_iff j).mp hj))
    rw [hpoll, hjk]
  · exact absurd ((s.rising_iff k).mpr hk) (by simp [hnone k])

theorem State.pollKey_of_none {s : State} (hnone : ∀ k, ¬pressEdge s k) : s.pollKey = { s with keyPrev := s.keys } := by
  obtain ⟨k, hk, -, -⟩ | ⟨-, hpoll⟩ := s.pollKey_cases
  · exact absurd ((s.rising_iff k).mp hk) (hnone k)
  · exact hpoll

/-- Running on is, of all parts, a write of the run state only. -/
theorem keptExcept_runOn {ps : List Part} {s t : State} (h : keptExcept ps s t) :
    keptExcept (.runState :: ps) s { t with runState := .running } := by
  intro p hp
  have hkept := h p (List.not_mem_of_not_mem_cons hp)
  cases p with
  | runState => simp at hp
  | pc | i | callStack | dt | st | memory | disp | keys | needsRedraw | waitLatches | haltRecord | cfg | rndCount =>
    exact hkept

theorem keptExcept_keyPrev (s : State) (ks : Keys) : keptExcept [.waitLatches] s { s with keyPrev := ks } := by
  intro p hp
  cases p with
  | waitLatches => simp at hp
  | callStack => exact ⟨rfl, rfl⟩
  | haltRecord => exact ⟨rfl, rfl, rfl⟩
  | memory => exact fun _ => rfl
  | pc | i | dt | st | disp | keys | needsRedraw | runState | cfg | rndCount => rfl

theorem toNat_keyByte (k : KeyIdx) : (BitVec.ofNat 8 k.val).toNat = k.val := by
  rw [BitVec.toNat_ofNat]
  omega

/-- Settles O40: a step in AwaitingKey is the poll. -/
theorem keyPollTakesTheLeastPressedKey : Obligations.KeyPollTakesTheLeastPressedKey := by
  constructor
  · intro s k hwait hk hleast
    obtain ⟨hv, hpc, hregs, hparts⟩ := writeV_advance_effect s s.waitReg (BitVec.ofNat 8 k.val)
    refine ⟨_, step_of_awaitingKey hwait, ?_⟩
    rw [State.pollKey_of_least hk hleast]
    exact ⟨(congrArg BitVec.toNat hv).trans (toNat_keyByte k), hpc, rfl, hregs,
      keptExcept_mono (keptExcept_runOn hparts) (by simp)⟩
  · intro s hwait hnone
    refine ⟨_, step_of_awaitingKey hwait, ?_⟩
    rw [State.pollKey_of_none hnone]
    exact ⟨rfl, rfl, fun _ _ => rfl, keptExcept_keyPrev s s.keys⟩

theorem State.tick_of_halted {s : State} (h : s.runState = .halted) : s.tick = s := by
  simp only [State.tick, h]

theorem State.tick_of_not_halted {s : State} (h : s.runState ≠ .halted) :
    s.tick = { s with dt := tickDown s.dt, st := tickDown s.st } := by
  cases hr : s.runState with
  | halted => exact absurd hr h
  | running | awaitingKey => simp only [State.tick, hr]

/-- Settles O41: a poll without an edge, Tick, KeySet and RedrawAck leave the run state as it is. -/
theorem onlyEdgeStopOrResetEndsTheWait : Obligations.OnlyEdgeStopOrResetEndsTheWait := by
  intro e s t hwait ht hended
  cases e with
  | reset rom => exact .inr (.inr ⟨rom, rfl⟩)
  | stop => exact .inr (.inl rfl)
  | step =>
    refine .inl ⟨rfl, ?_⟩
    by_contra hnone
    rw [applyEvent, step_of_awaitingKey hwait, State.pollKey_of_none fun k hk => hnone ⟨k, hk⟩] at ht
    cases ht
    exact hended hwait
  | tick =>
    cases ht
    rw [State.tick_of_not_halted (by simp [hwait])] at hended
    exact absurd hwait hended
  | keySet | redrawAck =>
    cases ht
    exact absurd hwait hended

/-! ## The timers -/

theorem tickDown_toNat (b : Byte) : (tickDown b).toNat = b.toNat - 1 := by
  have := b.isLt
  unfold tickDown
  split <;> bv_omega

theorem keptExcept_timers (s : State) (d b : Byte) : keptExcept [.dt, .st] s { s with dt := d, st := b } := by
  intro p hp
  cases p with
  | dt | st => simp at hp
  | callStack | waitLatches => exact ⟨rfl, rfl⟩
  | haltRecord => exact ⟨rfl, rfl, rfl⟩
  | memory => exact fun _ => rfl
  | pc | i | disp | keys | needsRedraw | runState | cfg | rndCount => rfl

/-- Settles O42: a tick is the two decrements, clamped at 0, and in Halted it is the identity. -/
theorem tickCountsBothTimersDown : Obligations.TickCountsBothTimersDown := by
  constructor
  · intro s hrun
    refine ⟨_, congrArg Host.Outcome.next (State.tick_of_not_halted hrun), tickDown_toNat _, tickDown_toNat _,
      fun hst => ?_, fun _ _ => rfl, keptExcept_timers s _ _⟩
    simp only [State.sound, hst]
    decide
  · intro s hhalted
    exact congrArg Host.Outcome.next (State.tick_of_halted hhalted)

/-- Any number of ticks changes the timers only, each less the count. -/
theorem runEvents_ticks (n : Nat) {s : State} (h : s.runState ≠ .halted) :
    ∃ d b : Byte, runEvents (List.replicate n .tick) s = .next { s with dt := d, st := b } ∧
      d.toNat = s.dt.toNat - n ∧ b.toNat = s.st.toNat - n := by
  induction n generalizing s with
  | zero => exact ⟨s.dt, s.st, rfl, rfl, rfl⟩
  | succ n ih =>
    obtain ⟨d, b, hrun, hd, hb⟩ := ih (s := { s with dt := tickDown s.dt, st := tickDown s.st }) h
    refine ⟨d, b, ?_, ?_, ?_⟩
    · rw [← hrun, List.replicate_succ, runEvents, applyEvent, State.tick_of_not_halted h]
    · rw [hd, tickDown_toNat]
      omega
    · rw [hb, tickDown_toNat]
      omega

/-- Settles O43, by induction on the number of ticks. -/
theorem timersReachZeroAndStay : Obligations.TimersReachZeroAndStay := by
  intro n s hrun
  obtain ⟨d, b, ht, hd, hb⟩ := runEvents_ticks n hrun
  exact ⟨_, ht, hd, hb, fun _ _ => rfl, keptExcept_timers s d b⟩

/-! ## Halted -/

/-- Settles O50: Step, Tick and Stop are the identity in Halted, and KeySet and RedrawAck never look at the run state. -/
theorem onlyResetLeavesHalted : Obligations.OnlyResetLeavesHalted := by
  intro e s t hhalted ht hreset
  have hsame : ∀ {u : State}, u = s → u.runState = .halted ∧ regsKeptExcept [] s u ∧
      keptExcept [.keys, .needsRedraw] s u ∧ (e = .step ∨ e = .tick ∨ e = .stop → u = s) := by
    rintro u rfl
    exact ⟨hhalted, fun _ _ => rfl, keptExcept_refl _ u, fun _ => rfl⟩
  cases e with
  | reset rom => exact absurd rfl (hreset rom)
  | step =>
    rw [applyEvent, step_of_halted hhalted] at ht
    cases ht
    exact hsame rfl
  | tick =>
    cases ht
    exact hsame (State.tick_of_halted hhalted)
  | stop =>
    cases ht
    exact hsame (State.stop_of_halted hhalted)
  | keySet k b =>
    cases ht
    exact ⟨hhalted, fun _ _ => rfl, keptExcept_mono (keptExcept_keySet s k b) (by simp), by simp⟩
  | redrawAck =>
    cases ht
    exact ⟨hhalted, fun _ _ => rfl, keptExcept_mono (keptExcept_redrawAck s) (by simp), by simp⟩

end Sys2Proof.Machine
end

section
/-! SUPPORT. Reset, with a ROM that fits and with one that does not (10_state.md R29, 70_reset_and_hazards.md R200, R201), and the
placing of one word for the next fetch (20_memory.md R46). -/

namespace Sys2Proof.Machine

/-! ## Memory at reset -/

/-- The state that Reset builds before it looks at the ROM; the count of free bytes goes on (log 3). -/
def State.blank (s : State) : State := { State.initial s.cfg with rndCount := s.rndCount }

theorem State.blank_memByte (s : State) (a : Nat) : s.blank.memByte a = Memory.unlisted s.cfg a := rfl

theorem Memory.unlisted_font (c : Config) {j : Nat} (hj : j < 80) :
    Memory.unlisted c (c.fontBase.val + j) = c.fontData[j] := by
  rw [Memory.unlisted, dif_pos (by simp only [fontSize]; omega)]
  simp only [Nat.add_sub_cancel_left]

theorem Memory.unlisted_outside {c : Config} {a : Nat} (h : ¬(c.fontBase.val ≤ a ∧ a < c.fontBase.val + 80)) :
    Memory.unlisted c a = 0 := dif_neg h

/-- The font ends below 0x200 (10_state.md R19). -/
theorem Memory.unlisted_program (c : Config) {a : Nat} (h : 0x200 ≤ a) : Memory.unlisted c a = 0 := by
  have := c.fontBase.isLt
  exact Memory.unlisted_outside (by omega)

theorem State.memByte_loadRom (s : State) {rom : List Byte} (hfit : rom.length ≤ 3584) (a : Nat) :
    (s.blank.storeBytes progBase rom).memByte a =
      if ha : 0x200 ≤ a ∧ a < 0x200 + rom.length then rom[a - 0x200] else Memory.unlisted s.cfg a :=
  State.memByte_storeBytes (Memory.wf_nil s.cfg) progBase rom (by simp only [progBase, memSize]; omega) a

theorem State.memByte_loadRom_rom (s : State) {rom : List Byte} (hfit : rom.length ≤ 3584) (j : Nat) (hj : j < rom.length) :
    (s.blank.storeBytes progBase rom).memByte (0x200 + j) = rom[j] := by
  rw [State.memByte_loadRom s hfit, dif_pos (by omega)]
  simp only [Nat.add_sub_cancel_left]

theorem State.memByte_loadRom_outside (s : State) {rom : List Byte} (hfit : rom.length ≤ 3584) {a : Nat}
    (ha : ¬(0x200 ≤ a ∧ a < 0x200 + rom.length)) :
    (s.blank.storeBytes progBase rom).memByte a = Memory.unlisted s.cfg a := by
  rw [State.memByte_loadRom s hfit, dif_neg ha]

/-! ## The reset table -/

theorem applyEvent_reset_of_fits (s : State) {rom : List Byte} (h : rom.length ≤ 3584) :
    applyEvent (.reset rom) s = .next (s.blank.storeBytes progBase rom) :=
  congrArg Host.Outcome.next (s.resetWith_of_fits h)

theorem applyEvent_reset_of_tooLarge (s : State) {rom : List Byte} (h : 3584 < rom.length) :
    applyEvent (.reset rom) s = .next (s.blank.raiseHalt .romTooLarge 0) :=
  congrArg Host.Outcome.next (s.resetWith_of_tooLarge h)

theorem State.blank_readV (s : State) (x : RegIdx) : s.blank.readV x = 0 := by
  simp [State.blank, State.initial, State.readV]

theorem State.blank_stack (s : State) (j : Fin 16) : s.blank.stack[j.val] = 0 := by
  simp [State.blank, State.initial]

theorem State.blank_pixel (s : State) (r : Fin 32) (c : Fin 64) : Display.pixel s.blank.disp r c = false :=
  Display.pixel_clear r c

theorem State.blank_keys (s : State) (k : KeyIdx) : s.blank.keys[k.val] = false := by
  simp [State.blank, State.initial]

theorem State.blank_keyPrev (s : State) (k : KeyIdx) : s.blank.keyPrev[k.val] = false := by
  simp [State.blank, State.initial]

/-- Settles O47: the blank state with the ROM stored in it. -/
theorem resetLeavesTheResetValues : Obligations.ResetLeavesTheResetValues := by
  intro s rom hfit
  have hfont := s.cfg.fontBase.isLt
  refine ⟨_, applyEvent_reset_of_fits s hfit, s.blank_readV, rfl, rfl, rfl, s.blank_stack, rfl, rfl, rfl,
    s.memByte_loadRom_rom hfit, fun j hj => ?font, fun a ha ha' => ?zero, s.blank_pixel, s.blank_keys, rfl, rfl, rfl,
    s.blank_keyPrev, rfl, rfl, rfl, rfl⟩
  case font => rw [s.memByte_loadRom_outside hfit (by omega), Memory.unlisted_font]
  case zero => rw [s.memByte_loadRom_outside hfit ha, Memory.unlisted_outside ha']

/-- With an empty ROM, memory at 0x200 is 0. -/
theorem State.fetchWord?_emptyRom (s : State) : (s.blank.storeBytes progBase []).fetchWord? = some 0 := by
  have hzero : ∀ a, 0x200 ≤ a → (s.blank.storeBytes progBase []).memByte a = 0 := fun a ha => by
    rw [s.memByte_loadRom_outside (by simp) (by simp), Memory.unlisted_program s.cfg ha]
  have hpc : (s.blank.storeBytes progBase []).pc.toNat = 0x200 := rfl
  rw [State.fetchWord?_of_le (by omega), hpc, hzero _ (by decide), hzero _ (by decide)]
  rfl

/-- Settles O48: a ROM that fits is stored, a larger one halts the blank state, and an empty one is the word 0, SYS 0. -/
theorem romSizeIsCheckedAtReset : Obligations.RomSizeIsCheckedAtReset := by
  refine ⟨fun s rom hfit => ?_, fun s rom hlarge => ?_, fun s => ?_⟩
  · exact ⟨_, applyEvent_reset_of_fits s hfit, rfl, rfl, rfl, s.memByte_loadRom_rom hfit⟩
  · exact ⟨_, applyEvent_reset_of_tooLarge s hlarge, rfl, rfl, rfl, rfl, rfl, s.blank_readV, rfl, rfl, s.blank_stack, rfl,
      rfl, rfl, fun j hj => Memory.unlisted_font s.cfg hj, fun a ha => Memory.unlisted_outside ha, s.blank_pixel,
      s.blank_keys, rfl, rfl, s.blank_keyPrev, rfl, fun a ha => Memory.unlisted_program s.cfg ha, step_of_halted rfl⟩
  · have hstep := step_of_decoded (i := .sys 0) rfl s.fetchWord?_emptyRom (by decide)
    exact ⟨_, _, applyEvent_reset_of_fits s (by simp), rfl, rfl, s.fetchWord?_emptyRom, hstep,
      haltedFrom_raiseHalt _ .unknownOpcode 0⟩

/-! ## Placing a word for the next fetch -/

theorem State.withFetchWord_pc_eq (s : State) (n w : Nat) :
    (s.withFetchWord n w).pc = if s.pc.toNat ≤ 4094 then s.pc else 0x200 := by
  rw [State.withFetchWord_pc]
  by_cases h : s.pc.toNat ≤ 4094
  · rw [if_neg (by omega), if_pos h]
  · rw [if_pos (by omega), if_neg h]
    rfl

theorem State.withFetchWord_pc_le (s : State) (n w : Nat) : (s.withFetchWord n w).pc.toNat ≤ 4094 := by
  rw [State.withFetchWord_pc_eq]
  split
  · assumption
  · decide

/-- The two bytes that `withFetchWord` stores are read back at its PC. -/
theorem State.withFetchWord_fetchWord? {s : State} (hwf : Memory.wf s.cfg s.mem) (n w : Nat) :
    (s.withFetchWord n w).fetchWord? = some (BitVec.ofNat 16 (w % 2 ^ n)) := by
  have hpc := s.withFetchWord_pc_le n w
  generalize hword : BitVec.ofNat 16 (w % 2 ^ n) = word
  have hread := State.memByte_storeBytes hwf (s.withFetchWord n w).pc.toNat (bytesOfWord word)
    (by simp only [bytesOfWord, List.length_cons, List.length_nil, memSize]; omega)
  rw [State.fetchWord?_of_le hpc, State.withFetchWord_memByte, State.withFetchWord_memByte, hword, hread, hread,
    dif_pos (by simp [bytesOfWord]), dif_pos (by simp [bytesOfWord])]
  simp [bytesOfWord, Laws.wordOfBytes_of_slices]

theorem keptExcept_withFetchWord (s : State) (n w : Nat) :
    keptExcept [.memory, .pc, .runState] s (s.withFetchWord n w) := by
  intro p hp
  cases p with
  | memory | pc | runState => simp at hp
  | callStack | waitLatches => exact ⟨rfl, rfl⟩
  | haltRecord => exact ⟨rfl, rfl, rfl⟩
  | i | dt | st | disp | keys | needsRedraw | cfg | rndCount => rfl

/-- Settles O11: the word is stored at a PC that can be fetched at. -/
theorem withFetchWordPlacesTheNextWord : Obligations.WithFetchWordPlacesTheNextWord := by
  intro s n w hwf
  have hpc := s.withFetchWord_pc_le n w
  refine ⟨rfl, State.withFetchWord_fetchWord? hwf n w, s.withFetchWord_pc_eq n w, ?_, fun _ _ => rfl,
    keptExcept_withFetchWord s n w⟩
  exact memoryKeptOutside_storeBytes hwf (bs := bytesOfWord _) rfl (by simp only [memSize]; omega)

end Sys2Proof.Machine
end
